-- ==== Sys2Proof/Word.lean ====
section
/-! DEFINITION. The word types of KECCAK-CORE (00_scope.md R10, R11). -/

namespace Sys2Proof

/-- A byte is 8 bits (R10). -/
abbrev Byte := BitVec 8

/-- A register word of the 32-bit bus (R9, BUS_DATA_BITS). -/
abbrev Word := BitVec 32

/-- A lane of the permutation state (R9, LANE_BITS). -/
abbrev Lane := BitVec 64

/-- `Bytes[n]`: n bytes indexed from 0 (R10). -/
abbrev Bytes (n : Nat) := Vector Byte n

/-- A byte address inside the 4 KiB window (R9, BUS_ADDR_BITS). -/
abbrev Offset := BitVec 12

end Sys2Proof
end

