-- ==== Sys2Proof/Config.lean ====
section
/-! DEFINITION. What a build or a platform fixes (92_eei_decisions.md, open parameters) and the free
values. Every constant has no body: nothing can evaluate it, so a claim holds for each of its values. -/

namespace Sys2Proof

/-- The internal lane representation of a build (00_scope.md R9, DATAPATH_LANE; U8). -/
inductive DatapathLane where
  | native64
  | pair32
  deriving DecidableEq, Repr, Inhabited

/-- ROUNDS_PER_CYCLE less one: the parameter is an integer 1 to 24 (R9, U7; log 11). -/
opaque Config.roundsPerCyclePred : Fin 24

/-- ROUNDS_PER_CYCLE, 1 to 24 (R9, D25). -/
def Config.roundsPerCycle : Nat := Config.roundsPerCyclePred.val + 1

/-- DATAPATH_LANE (R9, U8; log 11). -/
opaque Config.datapathLane : DatapathLane

/-- BASE: the platform address of the window (R9, U9; log 11). -/
opaque Config.base : Nat

/-- IRQ_LINE: the platform's interrupt input (60_exceptions.md R209, U10; log 11). -/
opaque Config.irqLine : Nat

/-- The free values: draw number `k` of a value of `width` bits (R12 `any32`, U1, U3, U4, U5; log 5). -/
opaque Config.freeBits : (width : Nat) → (k : Nat) → BitVec width

end Sys2Proof
end

