-- ==== Sys2Proof/Syntax.lean ====
section
/-! DEFINITION. The six commands of KECCAK-CORE, one constructor per row of spec/opcode_table.json
(30_encoding.md R92), and the two kinds of operand that are names. -/

namespace Sys2Proof

/-- The four hash variants (00_scope.md R3). -/
inductive Variant where
  | sha3_224
  | sha3_256
  | sha3_384
  | sha3_512
  deriving DecidableEq, Repr, Inhabited

/-- The padding option (00_scope.md R4): `keccak` is PADMODE 0, `fips202` is PADMODE 1 (names of R103). -/
inductive PadMode where
  | keccak
  | fips202
  deriving DecidableEq, Repr, Inhabited

/-- A command of KECCAK-CORE (R92). -/
inductive Instr where
  /-- NOP (R93, R172). -/
  | nop
  /-- INIT VARIANT, PADMODE (R94, R175). -/
  | init (variant : Variant) (pad : PadMode)
  /-- ABSORB NBYTES: the 3-bit field c[10:8] (R95, R145). -/
  | absorb (nbytes : BitVec 3)
  /-- FINAL (R96, R157). -/
  | final
  /-- PERMUTE (R97, R125). -/
  | permute
  /-- SRESET (R98, R180). -/
  | sreset
  deriving DecidableEq, Repr

end Sys2Proof
end

