-- ==== Sys2Proof/WellFormed.lean ====
section
/-! DEFINITION. Which terms of `Instr` are legal commands (30_encoding.md R92 to R98). -/

namespace Sys2Proof

/-- Every field value of every command is legal but NBYTES 5, 6 and 7 (R95); VARIANT and PADMODE
have no illegal value (R94). -/
def Instr.wf : Instr → Bool
  | .nop => true
  | .init _ _ => true
  | .absorb nbytes => nbytes.toNat ≤ 4
  | .final => true
  | .permute => true
  | .sreset => true

end Sys2Proof
end

