-- ==== Sys2Proof/Decode.lean ====
section
/-! DEFINITION. The decoder of command words, total on every 32-bit word, and the encoder
(30_encoding.md R90 to R103). -/

namespace Sys2Proof

/-- VARIANT code of a variant (00_scope.md R3). -/
def Variant.code : Variant → BitVec 2
  | .sha3_224 => 0b00#2
  | .sha3_256 => 0b01#2
  | .sha3_384 => 0b10#2
  | .sha3_512 => 0b11#2

/-- The variant of a VARIANT code (00_scope.md R3). -/
def Variant.ofCode (c : BitVec 2) : Variant :=
  if c = 0b00#2 then .sha3_224
  else if c = 0b01#2 then .sha3_256
  else if c = 0b10#2 then .sha3_384
  else .sha3_512

/-- PADMODE bit of a padding mode (00_scope.md R4). -/
def PadMode.bit : PadMode → BitVec 1
  | .keccak => 0#1
  | .fips202 => 1#1

/-- The padding mode of a PADMODE bit (00_scope.md R4). -/
def PadMode.ofBit (c : BitVec 1) : PadMode :=
  if c = 0#1 then .keccak else .fips202

/-- Why a word is illegal (R100). The classes are the rule's; their names are the model's (log 16). -/
inductive Illegal where
  /-- RSV, c[31:16], is not zero. -/
  | rsvNonZero
  /-- OP is 0x05 to 0x0E or 0x10 to 0xFF. -/
  | reservedOp
  /-- OP is 0x00, 0x03, 0x04 or 0x0F and ARG is not zero. -/
  | argNonZero
  /-- INIT with c[11:10] or c[15:13] not zero. -/
  | initReservedBits
  /-- ABSORB with c[15:11] not zero. -/
  | absorbReservedBits
  /-- ABSORB with NBYTES 5, 6 or 7. -/
  | nbytesTooLarge
  deriving DecidableEq, Repr

/-- OP = c[7:0] (R90). -/
def opField (c : Word) : Byte := c.extractLsb' 0 8

/-- ARG = c[15:8] (R90). -/
def argField (c : Word) : Byte := c.extractLsb' 8 8

/-- RSV = c[31:16] (R90). -/
def rsvField (c : Word) : BitVec 16 := c.extractLsb' 16 16

/-- INIT's argument byte: VARIANT in bits 1:0, PADMODE in bit 4, the other bits zero (R94). -/
def decodeInit (arg : Byte) : Except Illegal Instr :=
  if arg.extractLsb' 2 2 = 0#2 ∧ arg.extractLsb' 5 3 = 0#3 then
    .ok (.init (Variant.ofCode (arg.extractLsb' 0 2)) (PadMode.ofBit (arg.extractLsb' 4 1)))
  else .error .initReservedBits

/-- ABSORB's argument byte: NBYTES in bits 2:0, at most 4, the other bits zero (R95). -/
def decodeAbsorb (arg : Byte) : Except Illegal Instr :=
  if arg.extractLsb' 3 5 = 0#5 then
    if (arg.extractLsb' 0 3).toNat ≤ 4 then .ok (.absorb (arg.extractLsb' 0 3))
    else .error .nbytesTooLarge
  else .error .absorbReservedBits

/-- A command without operands: its argument byte is zero (R93, R96, R97, R98). -/
def decodePlain (i : Instr) (arg : Byte) : Except Illegal Instr :=
  if arg = 0x00#8 then .ok i else .error .argNonZero

/-- The class of a word (R91, R100): one legal command, or illegal for one named reason. It depends on
the bits of the word alone (R101). -/
def decode (c : Word) : Except Illegal Instr :=
  if rsvField c ≠ 0#16 then .error .rsvNonZero
  else if opField c = 0x00#8 then decodePlain .nop (argField c)
  else if opField c = 0x01#8 then decodeInit (argField c)
  else if opField c = 0x02#8 then decodeAbsorb (argField c)
  else if opField c = 0x03#8 then decodePlain .final (argField c)
  else if opField c = 0x04#8 then decodePlain .permute (argField c)
  else if opField c = 0x0F#8 then decodePlain .sreset (argField c)
  else .error .reservedOp

/-- OP of a command (R92). -/
def Instr.op : Instr → Byte
  | .nop => 0x00#8
  | .init _ _ => 0x01#8
  | .absorb _ => 0x02#8
  | .final => 0x03#8
  | .permute => 0x04#8
  | .sreset => 0x0F#8

/-- ARG of a command (R92 to R98). -/
def Instr.arg : Instr → Byte
  | .nop => 0x00#8
  | .init v p => 0b000#3 ++ p.bit ++ 0b00#2 ++ v.code
  | .absorb nbytes => 0b00000#5 ++ nbytes
  | .final => 0x00#8
  | .permute => 0x00#8
  | .sreset => 0x00#8

/-- A command word from its fields, RSV zero (R90). -/
def cmdWord (op arg : Byte) : Word := 0#16 ++ arg ++ op

/-- The word of a command (R92, R103). -/
def encode (i : Instr) : Word := cmdWord i.op i.arg

/-- The instruction of an opcode-table word. Every command is one 32-bit word (R101): a row shorter than
that stands for the word whose further bits are zero, and a longer one is no command unless its further
bits are zero. -/
def decodeTableWord (nbits w : Nat) : Option Instr :=
  if w % 2 ^ nbits < 2 ^ 32 then
    match decode (BitVec.ofNat 32 (w % 2 ^ nbits)) with
    | .ok i => some i
    | .error _ => none
  else none

end Sys2Proof
end

