-- ==== Sys2Proof/Machine/State.lean ====
section
/-! DEFINITION. The state of KECCAK-CORE as plain data: the block's storage elements (10_state.md R20),
the two agents, the schedule, and the reasons a step stops. -/

namespace Sys2Proof.Machine

/-- The accepted, not yet completed command (10_state.md R20, PEND). -/
structure Pend where
  op : Byte
  arg : Byte
  /-- DATA_IN as captured at acceptance (R28). -/
  data : Word
  deriving DecidableEq, Repr

/-- The storage elements of 10_state.md R20, under the spec's own names. -/
structure Block where
  /-- Live permutation state (R22). -/
  S : Bytes 200
  /-- Block buffer (R24). -/
  B : Bytes 144
  /-- Count of valid bytes in B (R24). -/
  n : BitVec 8
  /-- VARIANT (R23). -/
  V : Variant
  /-- PADMODE (00_scope.md R4). -/
  P : PadMode
  /-- INITED (R26). -/
  inited : Bool
  /-- Digest output (R27). -/
  DG : Bytes 64
  /-- Digest valid (R27). -/
  DV : Bool
  /-- DATA_IN (R28). -/
  dataIn : Word
  /-- IRQ_EN: bit 0 DONE_IE, bit 1 ERR_IE (R41). -/
  irqEn : BitVec 2
  /-- DONE (R39). -/
  done : Bool
  /-- ERR_BUSY (R40). -/
  errBusy : Bool
  /-- ERR_CMD (R40). -/
  errCmd : Bool
  /-- ERR_SEQ (R40). -/
  errSeq : Bool
  /-- ERR_COUNT (R40). -/
  errCount : Bool
  /-- ERR_ADDR (R46). -/
  errAddr : Offset
  /-- ERR_DATA (R46). -/
  errData : Word
  /-- BUSY (R36). -/
  busy : Bool
  /-- PEND, or none (R29). -/
  pend : Option Pend
  /-- Working copy, hidden (R29). -/
  W : Bytes 200
  /-- RC_IDX, hidden: the index of the engine's next round (R29, 41_permutation.md R124). -/
  rcIdx : BitVec 5
  deriving DecidableEq, Repr

/-- The two agents that take steps (00_scope.md R13). -/
inductive Actor where
  | host
  | engine
  deriving DecidableEq, Repr

/-- Who moves at a step: an agent, the reset pin, or the power supply (log 1). -/
inductive Turn where
  /-- The host makes its next access (R13 (a)). -/
  | host
  /-- The engine completes the pending command (R13 (b), 20_memory.md R66). -/
  | engine
  /-- A clock edge with rst_n = 0 and no access presented (70_reset_and_hazards.md R230). -/
  | reset
  /-- A clock edge with rst_n = 0 in which the host presents its next access (R231). -/
  | resetWithAccess
  /-- Power is removed and returns (60_exceptions.md R220, 70_reset_and_hazards.md R232). -/
  | powerCycle
  deriving DecidableEq, Repr

/-- A store narrower than the bus (20_memory.md R64). -/
inductive Narrow where
  | byte
  | half
  deriving DecidableEq, Repr

/-- One access of a host program (30_encoding.md R102), or its polling loop (R104 WAIT). -/
inductive HostOp where
  /-- `rd`: a read of the register at `addr`, its value bound by the program. -/
  | rd (addr : Offset)
  /-- `wr`: a write of the word `d`. -/
  | wr (addr : Offset) (d : Word)
  /-- A store of 8 or 16 bits (R64). -/
  | wrNarrow (size : Narrow) (addr : Offset) (d : Word)
  /-- WAIT: read STATUS, and stay here while BUSY = 1 (R104). -/
  | wait
  deriving DecidableEq, Repr

/-- The whole machine. `blk` is the hardware; the other fields are the model's own (logs 1, 2, 3, 5, 9). -/
structure State where
  /-- The storage elements of the block (R20). -/
  blk : Block
  /-- Whose step is under way (R13). -/
  actor : Actor
  /-- rst_n has been asserted since power came (R232). -/
  wasReset : Bool
  /-- The host's accesses still to be made, oldest first. -/
  host : List HostOp
  /-- Who moves at each coming step, oldest first (R66, U6). -/
  sched : List Turn
  /-- The words the host has read with `rd`, newest first (R61). -/
  received : List Word
  /-- How many free values have been drawn (R12, U1). -/
  draws : Nat
  deriving DecidableEq, Repr

/-- Why the machine is stuck. -/
inductive Fault where
  /-- Raised by `takeTurn`: a step other than a reset edge before the first reset (R232, U4: stuck).
  Safe: the spec defines no such step. -/
  | beforeFirstReset
  /-- Raised by `engineStep`: BUSY = 1 and PEND holds no command that can be pending. No run reaches
  such a state (`State.Inv`). Safe: it stops. -/
  | pendNotACommand
  deriving DecidableEq, Repr

/-- What the model refuses. -/
inductive Refusal where
  /-- Raised by `exec`: an instruction without a meaning. Safe: it stops. No arm of this model raises it. -/
  | notModelled (mnemonic : String)
  /-- Raised by `hostStep` and `accessUnderReset`: a sub-word store to the window, which a model must
  refuse (20_memory.md R64, U2). Safe: it stops. -/
  | subWordStore
  deriving DecidableEq, Repr

/-- What a step or a meaning answers. -/
abbrev Out := Host.Outcome State Fault Refusal

/-- The block at reset (10_state.md R20, 70_reset_and_hazards.md R230). The spec leaves W and RC_IDX
unspecified: their zeros here are the model's (DESIGN CHOICE, log 6). -/
def Block.reset : Block where
  S := Vector.replicate 200 0
  B := Vector.replicate 144 0
  n := 0
  V := .sha3_224
  P := .keccak
  inited := false
  DG := Vector.replicate 64 0
  DV := false
  dataIn := 0
  irqEn := 0
  done := false
  errBusy := false
  errCmd := false
  errSeq := false
  errCount := false
  errAddr := 0
  errData := 0
  busy := false
  pend := none
  W := Vector.replicate 200 0
  rcIdx := 0

/-- The machine right after reset: the block idle (R234), no access placed, no schedule laid down. -/
def State.reset : State where
  blk := Block.reset
  actor := .host
  wasReset := true
  host := []
  sched := []
  received := []
  draws := 0

end Sys2Proof.Machine
end

