-- ==== Sys2Proof/Machine/Operands.lean ====
section
/-! DEFINITION. Operand forms: the register map and its address decoding (10_state.md R30, 20_memory.md
R63), the byte order (00_scope.md R10), the variant table (R3), and the commands' byte operands. -/

namespace Sys2Proof.Machine

/-! ### Byte order -/

/-- `LE32(b[i..i+4))` (00_scope.md R10). A byte outside the array counts as zero, which no rule reads. -/
def le32 {m : Nat} (b : Bytes m) (i : Nat) : Word :=
  b.getD (i + 3) 0 ++ b.getD (i + 2) 0 ++ b.getD (i + 1) 0 ++ b.getD i 0

/-- `LE64(b[i..i+8))`: the same over 8 bytes (00_scope.md R10). -/
def le64 {m : Nat} (b : Bytes m) (i : Nat) : Lane := le32 b (i + 4) ++ le32 b i

/-- Byte `j` of a word: bits 8j+7:8j (10_state.md R28, 20_memory.md R70). -/
def wordByte (d : Word) (j : Nat) : Byte := d.extractLsb' (8 * j) 8

/-- `b[i..i+4) <- bytes of d, least significant first` (10_state.md R48, R49). -/
def setLe32 {m : Nat} (b : Bytes m) (i : Nat) (d : Word) : Bytes m :=
  Vector.ofFn fun k : Fin m =>
    if i ≤ k.val ∧ k.val < i + 4 then wordByte d (k.val - i) else b.getD k.val 0

/-- The word whose byte 0 is `a` (00_scope.md R10). -/
def wordOfBytes (a b c d : Byte) : Word := d ++ c ++ b ++ a

/-! ### The variant table (00_scope.md R3) -/

/-- rate(V) in bits (R3). -/
def rate : Variant → Nat
  | .sha3_224 => 1152
  | .sha3_256 => 1088
  | .sha3_384 => 832
  | .sha3_512 => 576

/-- outputLength(V) in bytes (R3). -/
def outLen : Variant → Nat
  | .sha3_224 => 28
  | .sha3_256 => 32
  | .sha3_384 => 48
  | .sha3_512 => 64

/-- rb = rate(V)/8 in bytes (R3, 10_state.md R23). -/
def rb (v : Variant) : Nat := rate v / 8

/-- capacity = 1600 - rate(V) in bits (00_scope.md R17). -/
def capacity (v : Variant) : Nat := 1600 - rate v

/-! ### The register map (10_state.md R30) -/

/-- A named register of the window. -/
inductive Reg where
  | id
  | params
  | cmd
  | status
  | irqEn
  | dataIn
  | count
  | mode
  | digestSize
  | blockSize
  | rate
  | capacity
  | errAddr
  | errData
  | digest (j : Fin 16)
  | state (j : Fin 50)
  | buf (j : Fin 36)
  deriving DecidableEq, Repr

/-- The byte offset of a register (R30). -/
def Reg.offset : Reg → Offset
  | .id => 0x000#12
  | .params => 0x004#12
  | .cmd => 0x008#12
  | .status => 0x00C#12
  | .irqEn => 0x010#12
  | .dataIn => 0x014#12
  | .count => 0x018#12
  | .mode => 0x01C#12
  | .digestSize => 0x020#12
  | .blockSize => 0x024#12
  | .rate => 0x028#12
  | .capacity => 0x02C#12
  | .errAddr => 0x030#12
  | .errData => 0x034#12
  | .digest j => BitVec.ofNat 12 (0x040 + 4 * j.val)
  | .state j => BitVec.ofNat 12 (0x100 + 4 * j.val)
  | .buf j => BitVec.ofNat 12 (0x200 + 4 * j.val)

/-- `off = addr[11:2] << 2` (20_memory.md R63): `addr[1:0]` is ignored (R72). -/
def alignOffset (addr : Offset) : Offset := addr.extractLsb' 2 10 ++ 0#2

/-- The register at word number `w` = addr[11:2]; `none` is a reserved offset (R30, R50). -/
def regAtWord (w : Nat) : Option Reg :=
  if 0x040 / 4 ≤ w ∧ w < 0x040 / 4 + 16 then some (.digest (Fin.ofNat 16 (w - 0x040 / 4)))
  else if 0x100 / 4 ≤ w ∧ w < 0x100 / 4 + 50 then some (.state (Fin.ofNat 50 (w - 0x100 / 4)))
  else if 0x200 / 4 ≤ w ∧ w < 0x200 / 4 + 36 then some (.buf (Fin.ofNat 36 (w - 0x200 / 4)))
  else [Reg.id, .params, .cmd, .status, .irqEn, .dataIn, .count, .mode, .digestSize, .blockSize,
    .rate, .capacity, .errAddr, .errData][w]?

/-- The register a transaction at `addr` reaches (R63); `none` is a reserved offset. -/
def regAt (addr : Offset) : Option Reg := regAtWord (addr.extractLsb' 2 10).toNat

/-- The port address of a platform address, BASE removed by the interconnect (20_memory.md R60, R63). -/
def portAddr (a : Nat) : Option Offset :=
  if Config.base ≤ a ∧ a < Config.base + 0x1000 then some (BitVec.ofNat 12 (a - Config.base)) else none

/-! ### Operands of commands -/

/-- The command word a pending command was accepted from: PEND holds c[7:0] and c[15:8], and RSV was
zero (60_exceptions.md R200). -/
def Pend.word (p : Pend) : Word := cmdWord p.op p.arg

/-- The instruction PEND holds. SRESET is never pending: it has no completion step (43_facade.md R181). -/
def Pend.instr (p : Pend) : Option Instr :=
  match decode p.word with
  | .ok .sreset => none
  | .ok i => some i
  | .error _ => none

/-- The bytes ABSORB takes from the captured DATA_IN: byte 0 first, bytes j >= k ignored (42_sponge.md R145). -/
def inputBytes (k : Nat) (data : Word) : List Byte := (List.range k).map (wordByte data)

end Sys2Proof.Machine
end

