-- ==== Sys2Proof/Machine/Flags.lean ====
section
/-! DEFINITION. The flags: the STATUS and MODE words, clearing by writing one, the error flags, and the
interrupt output (10_state.md R31 to R46, 60_exceptions.md R208). -/

namespace Sys2Proof.Machine

/-- A one-bit flag at bit `k` of a word. -/
def flagAt (x : Bool) (k : Nat) : Word := if x then 1#32 <<< k else 0#32

/-- The STATUS register (10_state.md R35). -/
def statusWord (b : Block) : Word :=
  flagAt b.busy 0 ||| flagAt b.inited 1 ||| flagAt b.DV 2 ||| flagAt b.done 3 |||
    flagAt b.errBusy 8 ||| flagAt b.errCmd 9 ||| flagAt b.errSeq 10 ||| flagAt b.errCount 11

/-- The MODE register: VARIANT in bits 1:0, PADMODE in bit 4 (10_state.md R45). -/
def modeWord (b : Block) : Word := b.V.code.setWidth 32 ||| (b.P.bit.setWidth 32 <<< 4)

/-- The PARAMS register (10_state.md R33). -/
def paramsWord : Word := 0x00401800#32 ||| BitVec.ofNat 32 Config.roundsPerCycle

/-- A host write of `d` to STATUS: each of bits 3, 8, 9, 10 and 11 written as 1 clears its flag
(10_state.md R31 W1C, R35). This is also how error handling ends (60_exceptions.md R213). -/
def clearFlags (d : Word) (b : Block) : Block :=
  { b with
    done := b.done && !d.getLsbD 3
    errBusy := b.errBusy && !d.getLsbD 8
    errCmd := b.errCmd && !d.getLsbD 9
    errSeq := b.errSeq && !d.getLsbD 10
    errCount := b.errCount && !d.getLsbD 11 }

/-- The four rejection causes (60_exceptions.md R201 to R204). -/
inductive ErrKind where
  | busy
  | cmd
  | seq
  | count
  deriving DecidableEq, Repr

/-- The value of one error flag. -/
def errFlag (k : ErrKind) (b : Block) : Bool :=
  match k with
  | .busy => b.errBusy
  | .cmd => b.errCmd
  | .seq => b.errSeq
  | .count => b.errCount

/-- `ERR_<NAME> <- 1` (60_exceptions.md R205). -/
def setErrFlag (k : ErrKind) (b : Block) : Block :=
  match k with
  | .busy => { b with errBusy := true }
  | .cmd => { b with errCmd := true }
  | .seq => { b with errSeq := true }
  | .count => { b with errCount := true }

/-- Some error flag is set (60_exceptions.md R205, R208). -/
def anyErr (b : Block) : Bool := b.errBusy || b.errCmd || b.errSeq || b.errCount

/-- The irq output, a level computed from the flags (60_exceptions.md R208). -/
def irq (b : Block) : Bool :=
  (b.done && b.irqEn.getLsbD 0) || (anyErr b && b.irqEn.getLsbD 1)

/-- The platform's interrupt inputs as this block drives them: IRQ_LINE alone (60_exceptions.md R209). -/
def platformIrq (line : Nat) (b : Block) : Bool := decide (line = Config.irqLine) && irq b

end Sys2Proof.Machine
end

