-- ==== Sys2Proof/Machine/Keccak.lean ====
section
/-! DEFINITION. The permutation engine, Keccak-f[1600] (41_permutation.md). -/

namespace Sys2Proof.Machine

/-- The 25 lanes; lane (x, y) is number x + 5y (10_state.md R22). -/
abbrev Lanes := Vector Lane 25

/-- `A[x][y]`, coordinates modulo 5 (41_permutation.md R112, 00_scope.md R11). -/
def lane (A : Lanes) (x y : Nat) : Lane := A.getD (x % 5 + 5 * (y % 5)) 0

/-- The lane array whose lane (x, y) is `g x y`. -/
def buildLanes (g : Nat → Nat → Lane) : Lanes := Vector.ofFn fun k : Fin 25 => g (k.val % 5) (k.val / 5)

/-- The lane view of the state bytes (10_state.md R22, 41_permutation.md R112). -/
def lanesOf (S : Bytes 200) : Lanes := Vector.ofFn fun k : Fin 25 => le64 S (8 * k.val)

/-- `S[8(x+5y) + i] = A[x][y][8i+7 : 8i]` (41_permutation.md R112). -/
def bytesOf (A : Lanes) : Bytes 200 :=
  Vector.ofFn fun i : Fin 200 => (A.getD (i.val / 8) 0).extractLsb' (8 * (i.val % 8)) 8

/-- `ROT(a, n)`, 0 ≤ n ≤ 63: left rotation (00_scope.md R11). -/
def rot (a : Lane) (n : Nat) : Lane := if n = 0 then a else (a <<< n) ||| (a >>> (64 - n))

/-! ### The five steps (R113 to R118), over a rotation `rt` so that a build's own can stand in it -/

/-- θ's column parity `C[x]` (R113). -/
def thetaC (A : Lanes) (x : Nat) : Lane :=
  lane A x 0 ^^^ lane A x 1 ^^^ lane A x 2 ^^^ lane A x 3 ^^^ lane A x 4

/-- θ's `D[x] = C[(x+4) mod 5] XOR ROT(C[(x+1) mod 5], 1)` (R113). -/
def thetaD (rt : Lane → Nat → Lane) (A : Lanes) (x : Nat) : Lane :=
  thetaC A (x + 4) ^^^ rt (thetaC A (x + 1)) 1

/-- θ (R113). -/
def thetaWith (rt : Lane → Nat → Lane) (A : Lanes) : Lanes :=
  buildLanes fun x y => lane A x y ^^^ thetaD rt A x

/-- The offsets r[x][y], one list per x (R114). -/
def rhoTable : List (List Nat) :=
  [[0, 36, 3, 41, 18],
   [1, 44, 10, 45, 2],
   [62, 6, 43, 15, 61],
   [28, 55, 25, 21, 56],
   [27, 20, 39, 8, 14]]

/-- r[x][y] (R114). -/
def rhoOffset (x y : Nat) : Nat := (rhoTable.getD x []).getD y 0

/-- ρ (R114). -/
def rhoWith (rt : Lane → Nat → Lane) (A : Lanes) : Lanes :=
  buildLanes fun x y => rt (lane A x y) (rhoOffset x y)

/-- π: `A'[x][y] = A[(x + 3y) mod 5][x]` (R116). -/
def piStep (A : Lanes) : Lanes := buildLanes fun x y => lane A (x + 3 * y) x

/-- χ (R117). -/
def chi (A : Lanes) : Lanes :=
  buildLanes fun x y => lane A x y ^^^ (~~~(lane A (x + 1) y) &&& lane A (x + 2) y)

/-- The round constants RC[0..23] (R119). -/
def roundConstants : List Lane :=
  [0x0000000000000001#64, 0x0000000000008082#64, 0x800000000000808A#64, 0x8000000080008000#64,
   0x000000000000808B#64, 0x0000000080000001#64, 0x8000000080008081#64, 0x8000000000008009#64,
   0x000000000000008A#64, 0x0000000000000088#64, 0x0000000080008009#64, 0x000000008000000A#64,
   0x000000008000808B#64, 0x800000000000008B#64, 0x8000000000008089#64, 0x8000000000008003#64,
   0x8000000000008002#64, 0x8000000000000080#64, 0x000000000000800A#64, 0x800000008000000A#64,
   0x8000000080008081#64, 0x8000000000008080#64, 0x0000000080000001#64, 0x8000000080008008#64]

/-- RC[i] (R119). -/
def RC (i : Nat) : Lane := roundConstants.getD i 0

/-- ι in round i: `A[0][0] = A[0][0] XOR RC[i]` (R118). -/
def iotaStep (A : Lanes) (i : Nat) : Lanes := A.setIfInBounds 0 (lane A 0 0 ^^^ RC i)

/-- `Round(A, i) = ι(χ(π(ρ(θ(A)))), i)` over a rotation (R118). -/
def roundWith (rt : Lane → Nat → Lane) (A : Lanes) (i : Nat) : Lanes :=
  iotaStep (chi (piStep (rhoWith rt (thetaWith rt A)))) i

/-- θ with ROT (R113). -/
def theta (A : Lanes) : Lanes := thetaWith rot A

/-- ρ with ROT (R114). -/
def rho (A : Lanes) : Lanes := rhoWith rot A

/-- `Round(A, i)` (R118). -/
def keccakRound (A : Lanes) (i : Nat) : Lanes := roundWith rot A i

/-- Rounds 0 to 23 in ascending order (R118). -/
def keccakRounds (A : Lanes) : Lanes := (List.range 24).foldl keccakRound A

/-- f, the Keccak-f[1600] permutation on the state bytes (R110, R118). -/
def keccakF (S : Bytes 200) : Bytes 200 := bytesOf (keccakRounds (lanesOf S))

/-! ### A build's engine: lane representation and round scheduling (R123, R124) -/

/-- A lane held as two 32-bit words (R123). -/
structure LanePair where
  hi : Word
  lo : Word
  deriving DecidableEq, Repr

/-- The pair of a lane. -/
def splitLane (a : Lane) : LanePair := ⟨a.extractLsb' 32 32, a.extractLsb' 0 32⟩

/-- The lane of a pair. -/
def joinLane (p : LanePair) : Lane := p.hi ++ p.lo

/-- Rotation of a pair by 0 < n < 32 (R123). -/
def rotPairShort (p : LanePair) (n : Nat) : LanePair :=
  ⟨(p.hi <<< n) ||| (p.lo >>> (32 - n)), (p.lo <<< n) ||| (p.hi >>> (32 - n))⟩

/-- Rotation of a pair by n < 64 (R123). By 0 it is the identity (R122). -/
def rotPair (p : LanePair) (n : Nat) : LanePair :=
  if n = 0 then p
  else if n < 32 then rotPairShort p n
  else if n = 32 then ⟨p.lo, p.hi⟩
  else rotPairShort ⟨p.lo, p.hi⟩ (n - 32)

/-- The rotation of a build: on the lane, or on the pair (00_scope.md R9, DATAPATH_LANE). -/
def buildRot : DatapathLane → Lane → Nat → Lane
  | .native64, a, n => rot a n
  | .pair32, a, n => joinLane (rotPair (splitLane a) n)

/-- One pass of the engine, from the lanes and RC_IDX: R rounds, or the rounds that remain (R124). -/
def enginePass (dl : DatapathLane) (R : Nat) (e : Lanes × Nat) : Lanes × Nat :=
  let m := min R (24 - e.2)
  ((List.range m).foldl (fun A j => roundWith (buildRot dl) A (e.2 + j)) e.1, e.2 + m)

/-- A number of passes. -/
def enginePasses (dl : DatapathLane) (R : Nat) : Nat → Lanes × Nat → Lanes × Nat
  | 0, e => e
  | k + 1, e => enginePasses dl R k (enginePass dl R e)

/-- `L_perm = ceil(24 / R)` passes (70_reset_and_hazards.md R244). -/
def passCount (R : Nat) : Nat := (24 + R - 1) / R

/-- The engine of a build: `passCount R` passes from round 0 (R124). -/
def engineF (dl : DatapathLane) (R : Nat) (S : Bytes 200) : Bytes 200 :=
  bytesOf (enginePasses dl R (passCount R) (lanesOf S, 0)).1

/-- The engine of this build, from the open parameters (00_scope.md R9). -/
def thisEngine (S : Bytes 200) : Bytes 200 := engineF Config.datapathLane Config.roundsPerCycle S

end Sys2Proof.Machine
end

