-- ==== Sys2Proof/Machine/Sponge.lean ====
section
/-! DEFINITION. The sponge: absorbing, padding, squeezing (42_sponge.md). -/

namespace Sys2Proof.Machine

/-- `for i in 0 .. r-1: X[i] <- X[i] XOR blk[i]`; the bytes from r on are untouched (42_sponge.md R141, R149). -/
def xorBlock {r : Nat} (X : Bytes 200) (blk : Bytes r) : Bytes 200 :=
  Vector.ofFn fun i : Fin 200 => if i.val < r then X[i] ^^^ blk.getD i.val 0 else X[i]

/-- AbsorbBlock (R141). -/
def absorbBlock {r : Nat} (X : Bytes 200) (blk : Bytes r) : Bytes 200 := keccakF (xorBlock X blk)

/-- `B[0 .. r)` as a block of r bytes. -/
def firstBytes (r : Nat) (B : Bytes 144) : Bytes r := Vector.ofFn fun i : Fin r => B.getD i.val 0

/-- AbsorbByte (R142). -/
def absorbByte (b : Block) (x : Byte) : Block :=
  let B' := b.B.setIfInBounds b.n.toNat x
  let n' := b.n + 1
  if n'.toNat = rb b.V then
    { b with S := absorbBlock b.S (firstBytes (rb b.V) B'), B := Vector.replicate 144 0, n := 0 }
  else { b with B := B', n := n' }

/-- Update: AbsorbByte over the data in order (R144). -/
def absorbBytes (b : Block) (data : List Byte) : Block := data.foldl absorbByte b

/-- The domain-separation byte DS(P) (R150, 90_conflicts.md C1). -/
def dsByte : PadMode → Byte
  | .keccak => 0x01#8
  | .fips202 => 0x06#8

/-- Byte i of PadBlock: the buffered byte or zero, DS(P) XORed into byte n, 0x80 into byte r-1 (R150). -/
def padByte (B : Bytes 144) (n : Nat) (P : PadMode) (r : Nat) (i : Nat) : Byte :=
  (if i < n then B.getD i 0 else 0) ^^^ (if i = n then dsByte P else 0) ^^^
    (if i + 1 = r then 0x80#8 else 0)

/-- PadBlock (R150). -/
def padBlock (B : Bytes 144) (n : Nat) (P : PadMode) (r : Nat) : Bytes r :=
  Vector.ofFn fun i : Fin r => padByte B n P r i.val

/-- Squeeze's loop with `need` bytes to go (R153). Every pass of the loop takes at least one byte when
r > 0, so `need` passes suffice: the first argument, at least that many, only bounds the recursion. -/
def squeezeLoop : Nat → Bytes 200 → Nat → Nat → List Byte
  | 0, _, _, _ => []
  | fuel + 1, W, need, r =>
    let take := min need r
    if need = take then W.toList.take take
    else W.toList.take take ++ squeezeLoop fuel (keccakF W) (need - take) r

/-- Squeeze(W, out, r) (R153). -/
def squeeze (W : Bytes 200) (out r : Nat) : List Byte := squeezeLoop (out + 1) W out r

/-- Finalize(S, B, n, V, P) (R154). -/
def finalize (S : Bytes 200) (B : Bytes 144) (n : Nat) (V : Variant) (P : PadMode) : List Byte :=
  squeeze (absorbBlock S (padBlock B n P (rb V))) (outLen V) (rb V)

/-- `Z ++ zeros(64 - |Z|)` as the digest register (R156). -/
def digestReg (Z : List Byte) : Bytes 64 := Vector.ofFn fun i : Fin 64 => Z.getD i.val 0

end Sys2Proof.Machine
end

