-- ==== Sys2Proof/Machine/Ops.lean ====
section
/-! DEFINITION. The shared operations: drawing free values, reset, rejecting a write, reading and
writing the register window, and the two halves of a command (acceptance and completion). -/

namespace Sys2Proof.Machine

/-! ### Free values (log 5) -/

/-- A free byte array, draw number `k`. -/
def freeBytes (m k : Nat) : Bytes m :=
  Vector.ofFn fun i : Fin m => (Config.freeBits (8 * m) k).extractLsb' (8 * i.val) 8

/-- A free bit, draw number `k`. -/
def freeBool (k : Nat) : Bool := (Config.freeBits 1 k).getLsbD 0

/-! ### Reset and power (70_reset_and_hazards.md) -/

/-- The block after a reset: the values of 10_state.md R20, with W and RC_IDX, which the spec leaves
unspecified (R233), free. -/
def resetBlock (k : Nat) : Block :=
  { Block.reset with W := freeBytes 200 k, rcIdx := Config.freeBits 5 k }

/-- Every storage element takes its reset value and PEND is discarded (43_facade.md R180,
70_reset_and_hazards.md R230, R235). -/
def softReset (s : State) : State := { s with blk := resetBlock s.draws, draws := s.draws + 1 }

/-- A clock edge with rst_n = 0 (R230). -/
def hardReset (s : State) : State := { softReset s with wasReset := true }

/-- Every storage element free: what power-up leaves (R232, 60_exceptions.md R220; log 9). -/
def powerUpBlock (k : Nat) : Block where
  S := freeBytes 200 k
  B := freeBytes 144 (k + 1)
  n := Config.freeBits 8 (k + 2)
  V := Variant.ofCode (Config.freeBits 2 (k + 3))
  P := PadMode.ofBit (Config.freeBits 1 (k + 4))
  inited := freeBool (k + 5)
  DG := freeBytes 64 (k + 6)
  DV := freeBool (k + 7)
  dataIn := Config.freeBits 32 (k + 8)
  irqEn := Config.freeBits 2 (k + 9)
  done := freeBool (k + 10)
  errBusy := freeBool (k + 11)
  errCmd := freeBool (k + 12)
  errSeq := freeBool (k + 13)
  errCount := freeBool (k + 14)
  errAddr := Config.freeBits 12 (k + 15)
  errData := Config.freeBits 32 (k + 16)
  busy := freeBool (k + 17)
  pend :=
    if freeBool (k + 18) then
      some ⟨Config.freeBits 8 (k + 19), Config.freeBits 8 (k + 20), Config.freeBits 32 (k + 21)⟩
    else none
  W := freeBytes 200 (k + 22)
  rcIdx := Config.freeBits 5 (k + 23)

/-- Power is removed and returns: all state is lost until the next reset (60_exceptions.md R220). -/
def powerUp (s : State) : State :=
  { s with blk := powerUpBlock s.draws, wasReset := false, draws := s.draws + 24 }

/-! ### Rejecting a write (60_exceptions.md R205) -/

/-- `raise Err<NAME>(off, d)` on the block: capture the offset and the word if no error flag was set,
then set the flag (R205). Nothing else changes (R207). -/
def raiseErr (k : ErrKind) (off : Offset) (d : Word) (b : Block) : Block :=
  setErrFlag k (if anyErr b then b else { b with errAddr := off, errData := d })

/-- `raiseErr` on the machine. -/
def reject (k : ErrKind) (off : Offset) (d : Word) (s : State) : State :=
  { s with blk := raiseErr k off d s.blk }

/-! ### Reading the window -/

/-- The registers whose read is any32 while BUSY = 1 (10_state.md R51). -/
def Reg.busyFree : Reg → Bool
  | .count => true
  | .digest _ => true
  | .state _ => true
  | .buf _ => true
  | .id | .params | .cmd | .status | .irqEn | .dataIn | .mode | .digestSize | .blockSize | .rate
  | .capacity | .errAddr | .errData => false

/-- The value of a register as its rule defines it (10_state.md R32 to R49; any32 apart). -/
def regValue (b : Block) : Reg → Word
  | .id => 0x4B454343#32
  | .params => paramsWord
  | .cmd => 0
  | .status => statusWord b
  | .irqEn => b.irqEn.setWidth 32
  | .dataIn => b.dataIn
  | .count => b.n.setWidth 32
  | .mode => modeWord b
  | .digestSize => BitVec.ofNat 32 (outLen b.V)
  | .blockSize => BitVec.ofNat 32 (rb b.V)
  | .rate => BitVec.ofNat 32 (Machine.rate b.V)
  | .capacity => BitVec.ofNat 32 (Machine.capacity b.V)
  | .errAddr => b.errAddr.setWidth 32
  | .errData => b.errData
  | .digest j => le32 b.DG (4 * j.val)
  | .state j => le32 b.S (4 * j.val)
  | .buf j => le32 b.B (4 * j.val)

/-- Is a read at `addr` a free draw (10_state.md R51)? -/
def readIsFree (b : Block) (addr : Offset) : Bool :=
  match regAt addr with
  | some r => b.busy && r.busyFree
  | none => false

/-- The word a read at `addr` returns: zero at a reserved offset (R50), any32 by R51, else the
register's value. -/
def readValue (s : State) (addr : Offset) : Word :=
  if readIsFree s.blk addr then Config.freeBits 32 s.draws
  else
    match regAt addr with
    | some r => regValue s.blk r
    | none => 0

/-- A free value was drawn, or not. -/
def countDraw (free : Bool) (s : State) : State := { s with draws := if free then s.draws + 1 else s.draws }

/-- A host read: the word is delivered and no register changes (20_memory.md R67). -/
def hostRead (addr : Offset) (s : State) : State :=
  countDraw (readIsFree s.blk addr) { s with received := readValue s addr :: s.received }

/-! ### Writing the window -/

/-- A write of `d` to COUNT (10_state.md R43). -/
def writeCount (d : Word) (b : Block) : Block :=
  if b.busy then raiseErr .busy Reg.count.offset d b
  else if rb b.V ≤ d.toNat then raiseErr .count Reg.count.offset d b
  else { b with n := d.setWidth 8, DV := false }

/-- A write of `d` to STATE[j] (10_state.md R48). -/
def writeState (j : Fin 50) (d : Word) (b : Block) : Block :=
  if b.busy then raiseErr .busy (Reg.state j).offset d b
  else { b with S := setLe32 b.S (4 * j.val) d, DV := false }

/-- A write of `d` to BUF[j] (10_state.md R49). -/
def writeBuf (j : Fin 36) (d : Word) (b : Block) : Block :=
  if b.busy then raiseErr .busy (Reg.buf j).offset d b
  else { b with B := setLe32 b.B (4 * j.val) d, DV := false }

/-- A write of `d` to a register other than CMD (20_memory.md R65). A write to a read-only register does
nothing (10_state.md R31). CMD's write is `cmdWrite`. -/
def writeReg (r : Reg) (d : Word) (b : Block) : Block :=
  match r with
  | .status => clearFlags d b
  | .irqEn => { b with irqEn := d.extractLsb' 0 2 }
  | .dataIn => { b with dataIn := d }
  | .count => writeCount d b
  | .state j => writeState j d b
  | .buf j => writeBuf j d b
  | .id | .params | .cmd | .mode | .digestSize | .blockSize | .rate | .capacity | .errAddr
  | .errData | .digest _ => b

/-! ### The two halves of a command (60_exceptions.md R200, 20_memory.md R66) -/

/-- `PEND <- (c[7:0], c[15:8], DATA_IN); BUSY <- 1` (60_exceptions.md R200). -/
def acceptCmd (i : Instr) (b : Block) : Block :=
  { b with pend := some ⟨i.op, i.arg, b.dataIn⟩, busy := true }

/-- Acceptance of a command other than SRESET in the step of its CMD write, the checks in the order of
60_exceptions.md R200 and R206. -/
def issue (needsInit : Bool) (i : Instr) (s : State) : State :=
  { s with blk :=
      if s.blk.busy then raiseErr .busy Reg.cmd.offset (encode i) s.blk
      else if !i.wf then raiseErr .cmd Reg.cmd.offset (encode i) s.blk
      else if needsInit && !s.blk.inited then raiseErr .seq Reg.cmd.offset (encode i) s.blk
      else acceptCmd i s.blk }

/-- `BUSY <- 0; DONE <- 1` (20_memory.md R66); PEND is empty again (R20). -/
def finishCmd (b : Block) : Block := { b with busy := false, done := true, pend := none }

/-- The engine's completion step of the command in PEND, whose effect on the block is `effect` of the
captured data word (20_memory.md R66). With PEND empty the engine has no step (log 4). -/
def complete (effect : Word → State → State) (s : State) : State :=
  match s.blk.pend with
  | some p => let t := effect p.data s; { t with blk := finishCmd t.blk }
  | none => s

/-- The engine has run f: its hidden registers are any value from here on (93 U5; log 6). -/
def hiddenUsed (s : State) : State :=
  { s with
    blk := { s.blk with W := freeBytes 200 s.draws, rcIdx := Config.freeBits 5 s.draws }
    draws := s.draws + 1 }

/-- A command's meaning: its acceptance in the host's step, its completion in the engine's (log 3). -/
def command (needsInit : Bool) (i : Instr) (effect : Word → State → State) (s : State) : Out :=
  match s.actor with
  | .host => .next (issue needsInit i s)
  | .engine => .next (complete effect s)

end Sys2Proof.Machine
end

