-- ==== Sys2Proof/Machine/Facade.lean ====
section
/-! DEFINITION. NOP, INIT and SRESET (43_facade.md). -/

namespace Sys2Proof.Machine

/-- NOP's effect: nothing (43_facade.md R172). -/
def nopEffect (_data : Word) (s : State) : State := s

/-- NOP (43_facade.md R172). -/
def execNop (s : State) : Out := command false .nop nopEffect s

/-- INIT's effect: a new, empty hash of one variant (43_facade.md R175). DG keeps the last FINAL's output
(10_state.md R27, D33, U13; R175's `DG <- zeros(64)` is not followed: log 21), and DV = 0 says that it is
not the digest of the new hash. -/
def initEffect (v : Variant) (p : PadMode) (_data : Word) (s : State) : State :=
  { s with blk :=
      { s.blk with
        S := Vector.replicate 200 0
        B := Vector.replicate 144 0
        n := 0
        V := v
        P := p
        inited := true
        DV := false } }

/-- INIT (43_facade.md R175). -/
def execInit (v : Variant) (p : PadMode) (s : State) : Out := command false (.init v p) (initEffect v p) s

/-- SRESET: always accepted, in the step of its write; no completion step (43_facade.md R180, R181). -/
def execSreset (s : State) : Out := .next (softReset s)

end Sys2Proof.Machine
end

