-- ==== Sys2Proof/Machine/Permutation.lean ====
section
/-! DEFINITION. PERMUTE (41_permutation.md R125). -/

namespace Sys2Proof.Machine

/-- PERMUTE's effect: `S <- f(S); DV <- 0` (41_permutation.md R125). The engine has run f, so its hidden
registers are any value (log 6). -/
def permuteEffect (_data : Word) (s : State) : State :=
  hiddenUsed { s with blk := { s.blk with S := keccakF s.blk.S, DV := false } }

/-- PERMUTE (41_permutation.md R125). -/
def execPermute (s : State) : Out := command false .permute permuteEffect s

end Sys2Proof.Machine
end

