-- ==== Sys2Proof/Machine/SpongeCmds.lean ====
section
/-! DEFINITION. ABSORB and FINAL (42_sponge.md). -/

namespace Sys2Proof.Machine

/-- ABSORB's effect: AbsorbByte over the first k bytes of the captured word, DV <- 0 (42_sponge.md R145).
The engine may have run f, so its hidden registers are any value (log 6). -/
def absorbEffect (k : BitVec 3) (data : Word) (s : State) : State :=
  hiddenUsed { s with blk := { absorbBytes s.blk (inputBytes k.toNat data) with DV := false } }

/-- ABSORB (42_sponge.md R145). -/
def execAbsorb (k : BitVec 3) (s : State) : Out := command true (.absorb k) (absorbEffect k) s

/-- FINAL on the block, in the order of the rule's pseudocode: the working copy W takes S, is padded and
absorbed, and is squeezed into DG; S, B and n are never written (42_sponge.md R155, R157). -/
def finalBlock (b : Block) : Block :=
  let b1 := { b with W := b.S }
  let b2 := { b1 with W := absorbBlock b1.W (padBlock b1.B b1.n.toNat b1.P (rb b1.V)) }
  let Z := squeeze b2.W (outLen b2.V) (rb b2.V)
  { b2 with DG := digestReg Z, DV := true }

/-- FINAL's effect. The engine has run f, so RC_IDX is any value; W is the rule's (log 6). -/
def finalEffect (_data : Word) (s : State) : State :=
  { s with
    blk := { finalBlock s.blk with rcIdx := Config.freeBits 5 s.draws }
    draws := s.draws + 1 }

/-- FINAL (42_sponge.md R157). -/
def execFinal (s : State) : Out := command true .final finalEffect s

end Sys2Proof.Machine
end

