-- ==== Sys2Proof/Machine/Dispatch.lean ====
section
/-! DEFINITION. The meaning of every command, one arm per constructor of Instr. -/

namespace Sys2Proof.Machine

def exec (i : Instr) (s : State) : Host.Outcome State Fault Refusal :=
  match i with
  | .nop => Sys2Proof.Machine.execNop s
  | .init v p => Sys2Proof.Machine.execInit v p s
  | .absorb k => Sys2Proof.Machine.execAbsorb k s
  | .final => Sys2Proof.Machine.execFinal s
  | .permute => Sys2Proof.Machine.execPermute s
  | .sreset => Sys2Proof.Machine.execSreset s

end Sys2Proof.Machine
end

