-- ==== Sys2Proof/Machine/Agents.lean ====
section
/-! DEFINITION. What each agent does in its step (00_scope.md R13): the host's bus access, the engine's
completion, the reset edge, the power supply. -/

namespace Sys2Proof.Machine

/-- A write of `c` to CMD (60_exceptions.md R200): a legal word is its instruction's business; an illegal
one is rejected with ERR_BUSY while busy and with ERR_CMD otherwise (R206). -/
def cmdWrite (c : Word) (s : State) : Out :=
  match decode c with
  | .ok i => exec i s
  | .error _ => .next (reject (if s.blk.busy then .busy else .cmd) Reg.cmd.offset c s)

/-- A host write of `d` at `addr` (20_memory.md R63, R65). A write to a reserved offset does nothing (R50). -/
def hostWrite (addr : Offset) (d : Word) (s : State) : Out :=
  match regAt addr with
  | some .cmd => cmdWrite d s
  | some r => .next { s with blk := writeReg r d s.blk }
  | none => .next s

/-- WAIT's read of STATUS (30_encoding.md R104): with bit 0 set the host stays in the loop. -/
def pollStatus (status : Word) (s : State) : State :=
  if status.getLsbD 0 then s else { s with host := s.host.tail }

/-- The host's step: its next access (20_memory.md R61). A host with no access left makes none (log 4). -/
def hostStep (s : State) : Out :=
  match s.host with
  | [] => .next s
  | .rd addr :: rest => .next (hostRead addr { s with host := rest })
  | .wr addr d :: rest => hostWrite addr d { s with host := rest }
  | .wrNarrow _ _ _ :: _ => .refused .subWordStore
  | .wait :: _ => .next (pollStatus (readValue s Reg.status.offset) s)

/-- The engine's step: the completion of PEND while BUSY = 1 (20_memory.md R66). While BUSY = 0 it has no
enabled step, and its turn passes (log 4). -/
def engineStep (s : State) : Out :=
  if s.blk.busy then
    match s.blk.pend.bind Pend.instr with
    | some i => exec i s
    | none => .fault .pendNotACommand
  else .next s

/-- A clock edge with rst_n = 0 in which the host presents its next access (70_reset_and_hazards.md R231):
the block is reset, a write has no effect and a read returns any32. -/
def accessUnderReset (s : State) : Out :=
  match s.host with
  | [] => .next (hardReset s)
  | .rd _ :: rest =>
    .next (hardReset { s with
      host := rest, received := Config.freeBits 32 s.draws :: s.received, draws := s.draws + 1 })
  | .wr _ _ :: rest => .next (hardReset { s with host := rest })
  | .wrNarrow _ _ _ :: _ => .refused .subWordStore
  | .wait :: _ =>
    .next (hardReset (pollStatus (Config.freeBits 32 s.draws) { s with draws := s.draws + 1 }))

/-- Who moves next: the schedule's head; with the schedule exhausted, the engine while it is enabled (so
that its step is eventually taken, 20_memory.md R66) and else the host (log 1). -/
def nextTurn (s : State) : Turn :=
  match s.sched with
  | t :: _ => t
  | [] => if s.blk.busy then .engine else .host

/-- The schedule moves on, and the step belongs to `a`. -/
def beginStep (a : Actor) (s : State) : State := { s with actor := a, sched := s.sched.tail }

/-- One step by whoever's turn it is. Before the first reset only a reset edge is a step
(70_reset_and_hazards.md R232, 93 U4). -/
def takeTurn (t : Turn) (s : State) : Out :=
  match t with
  | .host => if s.wasReset then hostStep (beginStep .host s) else .fault .beforeFirstReset
  | .engine => if s.wasReset then engineStep (beginStep .engine s) else .fault .beforeFirstReset
  | .reset => .next (hardReset (beginStep .host s))
  | .resetWithAccess => accessUnderReset (beginStep .host s)
  | .powerCycle => .next (powerUp (beginStep .host s))

/-- The state with a CMD write of the word `c` placed as the very next step: the write heads the host's
accesses, the host has the next turn, and the block is out of its first reset (log 15). -/
def placeCmdWrite (c : Word) (s : State) : State :=
  { s with host := .wr Reg.cmd.offset c :: s.host, sched := .host :: s.sched, wasReset := true }

end Sys2Proof.Machine
end

