-- ==== Sys2Proof/Machine/Step.lean ====
section
/-! DEFINITION. One step of the machine, and how an instruction is placed for the next step. -/

namespace Sys2Proof.Machine

/-- One step: whoever's turn it is moves (00_scope.md R13). -/
def step (s : State) : Host.Outcome State Fault Refusal := takeTurn (nextTurn s) s

/-- `s` with the instruction whose bits are `w` placed where `step` takes its next instruction: the next
host access, a write of that word to CMD (10_state.md R34; log 15). -/
def State.withFetchWord (s : State) (nbits w : Nat) : State :=
  placeCmdWrite (BitVec.ofNat 32 (w % 2 ^ nbits)) s

end Sys2Proof.Machine
end

