-- ==== Sys2Proof/Machine/Procedures.lean ====
section
/-! DEFINITION. Host programs: the access syntax and the pseudo-instructions (30_encoding.md R102 to R104)
and the host procedures of the façade (43_facade.md R171 to R187), as lists of accesses. -/

namespace Sys2Proof.Machine

/-- `wr <REG>, <value>` (30_encoding.md R102). -/
def wrReg (r : Reg) (d : Word) : HostOp := .wr r.offset d

/-- `rd <REG>` (30_encoding.md R102). -/
def rdReg (r : Reg) : HostOp := .rd r.offset

/-- `cmd <MNEMONIC> [operands]` (30_encoding.md R102, R103). -/
def cmdOp (i : Instr) : HostOp := wrReg .cmd (encode i)

/-- `ISSUE <MNEMONIC> [operands]` (30_encoding.md R104). -/
def issueOps (i : Instr) : List HostOp := [cmdOp i, .wait]

/-- `ABSORBW <n>, <word>` (30_encoding.md R104). -/
def absorbW (k : BitVec 3) (d : Word) : List HostOp := wrReg .dataIn d :: issueOps (.absorb k)

/-- `HASHBYTES <m>`: four bytes at a time, the last command taking the 1 to 3 that remain
(30_encoding.md R104, 43_facade.md R176). -/
def hashBytes : List Byte → List HostOp
  | [] => []
  | [a] => absorbW 1 (wordOfBytes a 0 0 0)
  | [a, b] => absorbW 2 (wordOfBytes a b 0 0)
  | [a, b, c] => absorbW 3 (wordOfBytes a b c 0)
  | a :: b :: c :: d :: rest => absorbW 4 (wordOfBytes a b c d) ++ hashBytes rest

/-- `CLEARSTATUS` (30_encoding.md R104). -/
def clearStatus : List HostOp := [wrReg .status 0x00000F08#32]

/-- `READDIGEST`: DIGEST[0 .. ceil(DIGEST_SIZE / 4) - 1] (30_encoding.md R104). -/
def readDigest (v : Variant) : List HostOp :=
  ((List.finRange 16).filter fun j => j.val < (outLen v + 3) / 4).map fun j => rdReg (.digest j)

/-- `makeHash(variant)` (43_facade.md R171, R174). -/
def makeHash (v : Variant) : List HostOp := issueOps (.init v .keccak)

/-- `digest()` (43_facade.md R177). -/
def digestProc (v : Variant) : List HostOp := issueOps .final ++ readDigest v

/-- The four metadata accessors (43_facade.md R187). -/
def metadataProc : List HostOp := [rdReg .digestSize, rdReg .blockSize, rdReg .rate, rdReg .capacity]

/-- `permute(state)` (43_facade.md R171): load 50 words, PERMUTE, read them back. -/
def permuteProc (w : Vector Word 50) : List HostOp :=
  ((List.finRange 50).map fun j => wrReg (.state j) w[j]) ++ issueOps .permute ++
    (List.finRange 50).map fun j => rdReg (.state j)

/-- A saved context in host memory, as SAVECTX reads it (43_facade.md R182, R183). -/
structure Ctx where
  mode : Word
  cnt : Word
  s : Vector Word 50
  b : Vector Word 36
  deriving DecidableEq, Repr

/-- `SAVECTX` (43_facade.md R183). -/
def saveCtx : List HostOp :=
  [.wait, rdReg .mode, rdReg .count] ++ ((List.finRange 50).map fun j => rdReg (.state j)) ++
    (List.finRange 36).map fun j => rdReg (.buf j)

/-- The words SAVECTX binds, in the order it reads them. -/
def Ctx.words (c : Ctx) : List Word := [c.mode, c.cnt] ++ c.s.toList ++ c.b.toList

/-- VARIANT of a saved context: mode[1:0] (43_facade.md R183). -/
def Ctx.variant (c : Ctx) : Variant := Variant.ofCode (c.mode.extractLsb' 0 2)

/-- PADMODE of a saved context: mode[4] (43_facade.md R183). -/
def Ctx.pad (c : Ctx) : PadMode := PadMode.ofBit (c.mode.extractLsb' 4 1)

/-- `LOADCTX` (43_facade.md R184): INIT first, then the windows, then COUNT. -/
def loadCtx (c : Ctx) : List HostOp :=
  [.wait] ++ issueOps (.init c.variant c.pad) ++
    ((List.finRange 50).map fun j => wrReg (.state j) c.s[j]) ++
    ((List.finRange 36).map fun j => wrReg (.buf j) c.b[j]) ++ [wrReg .count c.cnt]

/-- The context a block holds: what MODE, COUNT, STATE and BUF show of it. -/
def ctxOf (b : Block) : Ctx where
  mode := regValue b .mode
  cnt := regValue b .count
  s := Vector.ofFn fun j => regValue b (.state j)
  b := Vector.ofFn fun j => regValue b (.buf j)

/-- The lowercase hexadecimal digit of a nibble (43_facade.md R186). -/
def hexDigit (x : BitVec 4) : Char := "0123456789abcdef".toList.getD x.toNat '0'

/-- `hexdigest()`: the high nibble of each byte first (43_facade.md R186). Host software. -/
def hexDigest (digest : List Byte) : List Char :=
  digest.flatMap fun x => [hexDigit (x.extractLsb' 4 4), hexDigit (x.extractLsb' 0 4)]

end Sys2Proof.Machine
end

