-- ==== Sys2Proof/Safety.lean ====
section
/-! DEFINITION. The terms claims use: what a step is (a host write, a completion, a reset), which writes
are rejected, the invariant, runs, and the one-shot hash a run of commands must compute. -/

namespace Sys2Proof.Machine

/-! ### What a step is -/

/-- The next step is the host's, on a block that has been reset. -/
def HostTurn (s : State) : Prop := s.wasReset = true ∧ nextTurn s = .host

/-- The next step is the engine's, on a block that has been reset. -/
def EngineTurn (s : State) : Prop := s.wasReset = true ∧ nextTurn s = .engine

/-- The next step is the host's write of `d` at address `a`. -/
def HostWrites (s : State) (a : Offset) (d : Word) : Prop :=
  HostTurn s ∧ s.host.head? = some (.wr a d)

/-- The next step is the host's read at address `a`. -/
def HostReads (s : State) (a : Offset) : Prop := HostTurn s ∧ s.host.head? = some (.rd a)

/-- `s` with the host's next access taken out: what an access finds. -/
def hostTaken (s : State) : State :=
  { s with actor := .host, sched := s.sched.tail, host := s.host.tail }

/-- `s` as the engine finds it in its step. -/
def engineTaken (s : State) : State := { s with actor := .engine, sched := s.sched.tail }

/-- The next step is the engine's completion of the pending command `i`. -/
def Completes (s : State) (i : Instr) : Prop :=
  EngineTurn s ∧ s.blk.busy = true ∧ s.blk.pend.bind Pend.instr = some i

/-- The next step is a reset edge, a power cycle, or the host's SRESET write. -/
def ResetsBlock (s : State) : Prop :=
  nextTurn s = .reset ∨ nextTurn s = .resetWithAccess ∨ nextTurn s = .powerCycle ∨
    ∃ a, regAt a = some .cmd ∧ HostWrites s a 0x0000000F#32

/-! ### Which writes are rejected (60_exceptions.md R200 to R204) -/

/-- The illegal words, listed as 30_encoding.md R100 lists them. -/
def illegalWord (c : Word) : Bool :=
  let op := (c.extractLsb' 0 8).toNat
  let arg := c.extractLsb' 8 8
  (decide (0x05 ≤ op) && decide (op ≤ 0x0E)) || decide (0x10 ≤ op) ||
  decide (c.extractLsb' 16 16 ≠ 0) ||
  (([0x00, 0x03, 0x04, 0x0F] : List Nat).contains op && decide (arg ≠ 0)) ||
  (decide (op = 0x01) && (decide (c.extractLsb' 10 2 ≠ 0) || decide (c.extractLsb' 13 3 ≠ 0))) ||
  (decide (op = 0x02) && (decide (c.extractLsb' 11 5 ≠ 0) || decide (5 ≤ (c.extractLsb' 8 3).toNat)))

/-- The cause for which a host write of `d` at `a` is rejected, if it is (R200 to R204, in the order of
R206). -/
def rejection (b : Block) (a : Offset) (d : Word) : Option ErrKind :=
  match regAt a with
  | some .cmd =>
    if d = 0x0000000F#32 then none
    else if b.busy then some .busy
    else if illegalWord d then some .cmd
    else if (d.extractLsb' 0 8 = 0x02#8 ∨ d.extractLsb' 0 8 = 0x03#8) ∧ b.inited = false then some .seq
    else none
  | some .count => if b.busy then some .busy else if rb b.V ≤ d.toNat then some .count else none
  | some (.state _) => if b.busy then some .busy else none
  | some (.buf _) => if b.busy then some .busy else none
  | _ => none

/-! ### The invariant (10_state.md R24, R36, R55, R203) -/

/-- The commands that need INITED = 1 to be accepted (60_exceptions.md R203). -/
def needsInit : Instr → Bool
  | .absorb _ => true
  | .final => true
  | .nop | .init _ _ | .permute | .sreset => false

/-- BUSY = 1 exactly while PEND holds a command, one that its acceptance let in (10_state.md R36, R200). -/
def Block.pendOk (b : Block) : Bool :=
  match b.pend with
  | none => !b.busy
  | some p =>
    b.busy &&
      match p.instr with
      | some i => !needsInit i || b.inited
      | none => false

/-- What every step keeps of the block. -/
structure Block.Inv (b : Block) : Prop where
  /-- R55 (a): n < rb. -/
  count : b.n.toNat < rb b.V
  /-- R36: BUSY and PEND agree. -/
  pend : b.pendOk = true
  /-- R55 (c): if INITED = 0 then DV = 0. -/
  uninit : b.inited = false → b.DV = false
  /-- R55 (b): if DV = 1 then DG is the digest of the live content, followed by zeros. -/
  digest : b.DV = true → b.DG = digestReg (finalize b.S b.B b.n.toNat b.V b.P)

/-- The invariant of the machine: once reset, the block's. Before its first reset the block is
unspecified (70_reset_and_hazards.md R232). -/
def State.Inv (s : State) : Prop := s.wasReset = true → s.blk.Inv

/-! ### Runs -/

/-- `t` is reached from `s` in some number of steps. -/
def Reaches (s t : State) : Prop := ∃ k, Host.Core.run core k s = .next t

/-- A schedule of the two agents only, in any order (20_memory.md R66: any number of host steps may come
before a completion). -/
def AgentsOnly (sched : List Turn) : Prop := ∀ t ∈ sched, t = .host ∨ t = .engine

/-- A block ready for a host program: reset once, and idle. -/
def Ready (s : State) : Prop := s.wasReset = true ∧ s.blk.busy = false

/-- `s` with a host program to run and a schedule to run it under. -/
def withProgram (s : State) (prog : List HostOp) (sched : List Turn) : State :=
  { s with host := prog, sched := sched }

/-! ### The hash of a whole message, written without a buffer -/

/-- pad10*1 behind the domain byte, as `q` bytes: DS(P), zeros, and 0x80 in the last byte; one byte when
q = 1 (42_sponge.md R150, R151). -/
def padTail (P : PadMode) (q : Nat) : List Byte :=
  if q = 1 then [dsByte P ^^^ 0x80#8] else dsByte P :: (List.replicate (q - 2) 0 ++ [0x80#8])

/-- The message followed by its padding: a whole number of blocks of r bytes. -/
def padMessage (P : PadMode) (r : Nat) (m : List Byte) : List Byte := m ++ padTail P (r - m.length % r)

/-- Block j of a padded message. -/
def messageBlock (r : Nat) (m : List Byte) (j : Nat) : Bytes r :=
  Vector.ofFn fun i : Fin r => m.getD (j * r + i.val) 0

/-- The sponge hash of a message in one go: absorb every block of the padded message into the zero state,
then take the first outputLength bytes (42_sponge.md R141, R150, R155). -/
def hashOf (V : Variant) (P : PadMode) (m : List Byte) : List Byte :=
  let padded := padMessage P (rb V) m
  let S := (List.range (padded.length / rb V)).foldl
    (fun X j => absorbBlock X (messageBlock (rb V) padded j)) (Vector.replicate 200 0)
  S.toList.take (outLen V)

/-! ### The formulas that generate the engine's tables (41_permutation.md R115, R120) -/

/-- The walk of R115: (x, y) after t steps from (1, 0). -/
def rhoWalk : Nat → Nat × Nat
  | 0 => (1, 0)
  | t + 1 => ((rhoWalk t).2, (2 * (rhoWalk t).1 + 3 * (rhoWalk t).2) % 5)

/-- One step of R120's register R[0..7]: prepend 0, then XOR the dropped last bit into positions 0, 4, 5
and 6. -/
def lfsrStep (R : List Bool) : List Bool :=
  let dropped := R.getD 7 false
  (List.range 8).map fun i =>
    (if i = 0 then false else R.getD (i - 1) false) ^^
      (dropped && ([0, 4, 5, 6] : List Nat).contains i)

/-- The register of R120 after t steps. -/
def lfsr : Nat → List Bool
  | 0 => [true, false, false, false, false, false, false, false]
  | t + 1 => lfsrStep (lfsr t)

/-- rc(t) (R120). -/
def rcBit (t : Nat) : Bool := (lfsr (t % 255)).getD 0 false

/-- RC[i] by R120: bit 2^j - 1 is rc(j + 7i) for j = 0..6, every other bit is zero. -/
def rcFormula (i : Nat) : Lane :=
  (List.range 7).foldl (fun c j => c ||| (if rcBit (j + 7 * i) then 1#64 <<< (2 ^ j - 1) else 0)) 0

end Sys2Proof.Machine
end

