-- ==== Sys2Proof/Certificates/Slice0/Obligations.lean ====
section
/-! DEFINITION. The statements for the provers. The comment over each names the rule it formalises or the
sections it rests on. Free values (`freeBytes`, `Config.freeBits`) stand for what the spec leaves
unspecified: every statement holds whatever they are (logs 5, 6). -/

open Sys2Proof Sys2Proof.Machine

/-! ### Encoding (30_encoding.md) -/

/-- 30_encoding.md sections 1, 2 and 4: the word of every legal command decodes to that command. -/
def Obligations.DecodeOfEncode : Prop :=
  ∀ i : Instr, i.wf = true → decode (encode i) = .ok i

/-- 30_encoding.md sections 1 and 2: a word that decodes is the word of the command it decodes to. -/
def Obligations.EncodeOfDecode : Prop :=
  ∀ (c : Word) (i : Instr), decode c = .ok i → i.wf = true ∧ encode i = c

/-- 30_encoding.md section 1 (R92): the legal words, written out, decode to the commands of the opcode map. -/
def Obligations.LegalWordsDecode : Prop :=
  decode 0x00000000#32 = .ok .nop ∧
  decode 0x00000001#32 = .ok (.init .sha3_224 .keccak) ∧
  decode 0x00000101#32 = .ok (.init .sha3_256 .keccak) ∧
  decode 0x00000201#32 = .ok (.init .sha3_384 .keccak) ∧
  decode 0x00000301#32 = .ok (.init .sha3_512 .keccak) ∧
  decode 0x00001001#32 = .ok (.init .sha3_224 .fips202) ∧
  decode 0x00001101#32 = .ok (.init .sha3_256 .fips202) ∧
  decode 0x00001201#32 = .ok (.init .sha3_384 .fips202) ∧
  decode 0x00001301#32 = .ok (.init .sha3_512 .fips202) ∧
  decode 0x00000002#32 = .ok (.absorb 0) ∧
  decode 0x00000102#32 = .ok (.absorb 1) ∧
  decode 0x00000202#32 = .ok (.absorb 2) ∧
  decode 0x00000302#32 = .ok (.absorb 3) ∧
  decode 0x00000402#32 = .ok (.absorb 4) ∧
  decode 0x00000003#32 = .ok .final ∧
  decode 0x00000004#32 = .ok .permute ∧
  decode 0x0000000F#32 = .ok .sreset

/-- R100: the words that do not decode are the listed ones, and writing one to CMD while idle sets ERR_CMD
(with the capture of R205) and changes nothing else. -/
def Obligations.IllegalWordsRejected : Prop :=
  ∀ c : Word,
    ((∃ e, decode c = .error e) ↔ illegalWord c = true) ∧
    ∀ (s : State) (a : Offset), illegalWord c = true → HostWrites s a c → regAt a = some .cmd →
      s.blk.busy = false →
      step s = .next { hostTaken s with blk :=
        { s.blk with
          errCmd := true
          errAddr := if anyErr s.blk then s.blk.errAddr else 0x008#12
          errData := if anyErr s.blk then s.blk.errData else c } }

/-! ### A step runs the decoded instruction -/

/-- 10_state.md section 2 (R34), 20_memory.md section 1 (R66), 60_exceptions.md section 1 (R200): a host
write of a legal word to CMD is that instruction's meaning, on the state with the access taken out; the
engine's step is the meaning of the command in PEND. -/
def Obligations.StepRunsDecodedInstruction : Prop :=
  (∀ (s : State) (a : Offset) (c : Word) (i : Instr),
    HostWrites s a c → alignOffset a = 0x008#12 → decode c = .ok i → step s = exec i (hostTaken s)) ∧
  ∀ (s : State) (i : Instr), Completes s i → step s = exec i (engineTaken s)

/-- 10_state.md section 2 (R34); how a program is placed is the model's (log 15): the instruction that
`withFetchWord` places is the one the next step runs, on the state it was placed in. -/
def Obligations.PlacedWordRunsNext : Prop :=
  ∀ (s : State) (nbits w : Nat) (i : Instr), decodeTableWord nbits w = some i →
    step (s.withFetchWord nbits w) = exec i { s with actor := .host, wasReset := true }

/-- 60_exceptions.md section 1 (R200): the acceptance procedure of a CMD write. That SRESET leaves W and
RC_IDX, which the spec leaves unspecified, as free values is the model's (logs 5, 6). -/
def Obligations.CmdWriteProcedure : Prop :=
  ∀ (s : State) (a : Offset) (c : Word), HostWrites s a c → regAt a = some .cmd →
    step s = .next
      (if c = 0x0000000F#32 then
        { hostTaken s with
          blk := { Block.reset with W := freeBytes 200 s.draws, rcIdx := Config.freeBits 5 s.draws }
          draws := s.draws + 1 }
      else { hostTaken s with
        blk :=
        if s.blk.busy then raiseErr .busy 0x008#12 c s.blk
        else if illegalWord c then raiseErr .cmd 0x008#12 c s.blk
        else if (c.extractLsb' 0 8 = 0x02#8 ∨ c.extractLsb' 0 8 = 0x03#8) ∧ s.blk.inited = false then
          raiseErr .seq 0x008#12 c s.blk
        else { s.blk with
          pend := some ⟨c.extractLsb' 0 8, c.extractLsb' 8 8, s.blk.dataIn⟩
          busy := true } })

/-! ### Completion of each command (its own effect), with its frame: every field not named is unchanged

That a completion empties PEND is the model's (DEDUCED, log 20). -/

/-- 43_facade.md section 2 (R172), 20_memory.md section 1 (R66): NOP completes without effect. (PEND
emptied: the model's, log 20.) -/
def Obligations.NopCompletes : Prop :=
  ∀ (s : State) (p : Pend), s.actor = .engine → s.blk.pend = some p →
    exec .nop s = .next { s with blk := { s.blk with busy := false, done := true, pend := none } }

/-- 43_facade.md section 2 (R175): INIT's completion. (PEND emptied: the model's, log 20. DG kept: R27, D33
and U13, which the model follows against one line of R175's pseudocode, log 21.) -/
def Obligations.InitCompletes : Prop :=
  ∀ (s : State) (p : Pend) (v : Variant) (m : PadMode), s.actor = .engine → s.blk.pend = some p →
    exec (.init v m) s = .next { s with blk :=
      { s.blk with
        S := Vector.replicate 200 0
        B := Vector.replicate 144 0
        n := 0
        V := v
        P := m
        inited := true
        DV := false
        busy := false
        done := true
        pend := none } }

/-- 42_sponge.md section 2 (R142, R145): ABSORB's completion. Without a full block the bytes join the
buffer; with one, the block is absorbed and the bytes left over start the cleared buffer. (The model's: W
and RC_IDX are free afterwards, log 6; PEND is emptied, log 20.) -/
def Obligations.AbsorbCompletes : Prop :=
  ∀ (s : State) (p : Pend) (k : BitVec 3), s.actor = .engine → s.blk.pend = some p → k.toNat ≤ 4 →
    s.blk.n.toNat < rb s.blk.V →
    ∃ t : State, exec (.absorb k) s = .next t ∧
      (s.blk.n.toNat + k.toNat < rb s.blk.V →
        t.blk.S = s.blk.S ∧ t.blk.n.toNat = s.blk.n.toNat + k.toNat ∧
        ∀ i : Fin 144, t.blk.B[i] =
          if s.blk.n.toNat ≤ i.val ∧ i.val < s.blk.n.toNat + k.toNat then
            wordByte p.data (i.val - s.blk.n.toNat)
          else s.blk.B[i]) ∧
      (rb s.blk.V ≤ s.blk.n.toNat + k.toNat →
        t.blk.S = absorbBlock s.blk.S (Vector.ofFn fun i : Fin (rb s.blk.V) =>
          if i.val < s.blk.n.toNat then s.blk.B.getD i.val 0
          else wordByte p.data (i.val - s.blk.n.toNat)) ∧
        t.blk.n.toNat = s.blk.n.toNat + k.toNat - rb s.blk.V ∧
        ∀ i : Fin 144, t.blk.B[i] =
          if i.val < s.blk.n.toNat + k.toNat - rb s.blk.V then
            wordByte p.data (rb s.blk.V - s.blk.n.toNat + i.val)
          else 0) ∧
      t = { s with
        draws := s.draws + 1
        blk := { s.blk with
          S := t.blk.S
          B := t.blk.B
          n := t.blk.n
          DV := false
          busy := false
          done := true
          pend := none
          W := freeBytes 200 s.draws
          rcIdx := Config.freeBits 5 s.draws } }

/-- 42_sponge.md section 4 (R157): FINAL's completion. S, B, n, V, P, INITED and DATA_IN are unchanged. (The
model's: RC_IDX is free afterwards, log 6; PEND is emptied, log 20.) -/
def Obligations.FinalCompletes : Prop :=
  ∀ (s : State) (p : Pend), s.actor = .engine → s.blk.pend = some p →
    exec .final s = .next { s with
      draws := s.draws + 1
      blk := { s.blk with
        W := absorbBlock s.blk.S (padBlock s.blk.B s.blk.n.toNat s.blk.P (rb s.blk.V))
        DG := digestReg (finalize s.blk.S s.blk.B s.blk.n.toNat s.blk.V s.blk.P)
        DV := true
        busy := false
        done := true
        pend := none
        rcIdx := Config.freeBits 5 s.draws } }

/-- 41_permutation.md section 4 (R125): PERMUTE's completion. (The model's: W and RC_IDX are free
afterwards, log 6; PEND is emptied, log 20.) -/
def Obligations.PermuteCompletes : Prop :=
  ∀ (s : State) (p : Pend), s.actor = .engine → s.blk.pend = some p →
    exec .permute s = .next { s with
      draws := s.draws + 1
      blk := { s.blk with
        S := keccakF s.blk.S
        DV := false
        busy := false
        done := true
        pend := none
        W := freeBytes 200 s.draws
        rcIdx := Config.freeBits 5 s.draws } }

/-- 43_facade.md section 2 (R180, R181): SRESET resets every storage element at once, whatever BUSY is.
W and RC_IDX are free afterwards (the model's: logs 5, 6). -/
def Obligations.SresetCompletes : Prop :=
  ∀ s : State,
    exec .sreset s = .next { s with
      draws := s.draws + 1
      blk := { Block.reset with W := freeBytes 200 s.draws, rcIdx := Config.freeBits 5 s.draws } }

/-! ### Rejections (60_exceptions.md) -/

/-- R205: what raising an error does to the block, field by field. -/
def Obligations.RaiseCapturesFirstRejection : Prop :=
  ∀ (k : ErrKind) (off : Offset) (d : Word) (b : Block),
    raiseErr k off d b = { b with
      errAddr := if b.errBusy = false ∧ b.errCmd = false ∧ b.errSeq = false ∧ b.errCount = false
        then off else b.errAddr
      errData := if b.errBusy = false ∧ b.errCmd = false ∧ b.errSeq = false ∧ b.errCount = false
        then d else b.errData
      errBusy := b.errBusy || decide (k = .busy)
      errCmd := b.errCmd || decide (k = .cmd)
      errSeq := b.errSeq || decide (k = .seq)
      errCount := b.errCount || decide (k = .count) }

/-- R201, R202, R203, R204, R206, R207: a write rejected for a cause sets that cause's flag, captures if
no flag was set, and changes nothing else; a write that is not rejected sets no error flag. -/
def Obligations.RejectedWriteChangesOnlyItsFlag : Prop :=
  ∀ (s : State) (a : Offset) (d : Word), HostWrites s a d →
    (∀ k, rejection s.blk a d = some k →
      step s = .next { hostTaken s with blk :=
        { s.blk with
          errAddr := if anyErr s.blk then s.blk.errAddr else alignOffset a
          errData := if anyErr s.blk then s.blk.errData else d
          errBusy := s.blk.errBusy || decide (k = .busy)
          errCmd := s.blk.errCmd || decide (k = .cmd)
          errSeq := s.blk.errSeq || decide (k = .seq)
          errCount := s.blk.errCount || decide (k = .count) } }) ∧
    (rejection s.blk a d = none →
      ∃ t, step s = .next t ∧ ∀ k, errFlag k t.blk = true → errFlag k s.blk = true)

/-- R40: an error flag is set only by its own rejection, and cleared only by a host write of 1 to its bit
of STATUS, by SRESET and by reset (a power cycle is the model's: log 9). -/
def Obligations.ErrorFlagsAreSticky : Prop :=
  ∀ (s t : State) (k : ErrKind), step s = .next t →
    (errFlag k s.blk = false → errFlag k t.blk = true → nextTurn s ≠ .powerCycle →
      ∃ a d, HostWrites s a d ∧ rejection s.blk a d = some k) ∧
    (errFlag k s.blk = true → errFlag k t.blk = false →
      ResetsBlock s ∨
      ∃ a d, HostWrites s a d ∧ regAt a = some .status ∧
        d.getLsbD (match k with | .busy => 8 | .cmd => 9 | .seq => 10 | .count => 11) = true)

/-- R39: DONE. -/
def Obligations.DoneFlag : Prop :=
  (∀ (s : State) (i : Instr), Completes s i → ∃ t, step s = .next t ∧ t.blk.done = true) ∧
  (∀ s t : State, step s = .next t → s.blk.done = false → t.blk.done = true →
    nextTurn s = .powerCycle ∨ ∃ i, Completes s i) ∧
  (∀ (s : State) (a : Offset) (d : Word), HostWrites s a d → ∀ k, rejection s.blk a d = some k →
    ∃ t, step s = .next t ∧ t.blk.done = s.blk.done) ∧
  (∀ (s : State) (a : Offset), HostWrites s a 0x0000000F#32 → regAt a = some .cmd →
    ∃ t, step s = .next t ∧ t.blk.done = false) ∧
  (∀ s t : State, nextTurn s = .reset ∨ nextTurn s = .resetWithAccess → step s = .next t → t.blk.done = false) ∧
  (∀ (s : State) (a : Offset) (d : Word), HostWrites s a d → regAt a = some .status →
    d.getLsbD 3 = true →
    ∃ t, step s = .next t ∧ t.blk.done = false ∧
      ∀ i, Completes t i → ∃ u, step t = .next u ∧ u.blk.done = true)

/-- R208: the interrupt output in terms of the STATUS bits. -/
def Obligations.IrqLevel : Prop :=
  ∀ b : Block, irq b =
    (((statusWord b).getLsbD 3 && b.irqEn.getLsbD 0) ||
      (((statusWord b).getLsbD 8 || (statusWord b).getLsbD 9 || (statusWord b).getLsbD 10 ||
        (statusWord b).getLsbD 11) && b.irqEn.getLsbD 1))

/-! ### The register window (10_state.md, 20_memory.md) -/

/-- R63, R50: address decoding, the reserved offsets, and their reads and writes; and, of R31, a write to
a read-only register does nothing. -/
def Obligations.AddressDecoding : Prop :=
  (∀ a a' : Offset, a.extractLsb' 2 10 = a'.extractLsb' 2 10 → regAt a = regAt a') ∧
  (∀ r : Reg, regAt r.offset = some r) ∧
  (∀ (a : Offset) (r : Reg), regAt a = some r → r.offset = alignOffset a) ∧
  (∀ a : Offset, regAt a = none ↔
    (0x038 ≤ (alignOffset a).toNat ∧ (alignOffset a).toNat ≤ 0x03C) ∨
    (0x080 ≤ (alignOffset a).toNat ∧ (alignOffset a).toNat ≤ 0x0FC) ∨
    (0x1C8 ≤ (alignOffset a).toNat ∧ (alignOffset a).toNat ≤ 0x1FC) ∨
    (0x290 ≤ (alignOffset a).toNat ∧ (alignOffset a).toNat ≤ 0xFFC)) ∧
  (∀ (s : State) (a : Offset), regAt a = none → HostReads s a →
    step s = .next { hostTaken s with received := 0 :: s.received }) ∧
  (∀ (s : State) (a : Offset) (d : Word), regAt a = none → HostWrites s a d →
    step s = .next (hostTaken s)) ∧
  (∀ (s : State) (a : Offset) (d : Word) (r : Reg), HostWrites s a d → regAt a = some r →
    (r ∈ [Reg.id, .params, .mode, .digestSize, .blockSize, .rate, .capacity, .errAddr, .errData] ∨
      ∃ j, r = .digest j) →
    step s = .next (hostTaken s)) ∧
  ∀ off : Nat, off < 0x1000 → portAddr (Config.base + off) = some (BitVec.ofNat 12 off)

/-- 20_memory.md section 1 (R61), 10_state.md section 2 (R32 to R35, R41 to R49, R51): a read while idle,
and while busy a read of a register that R51 lists as exact, delivers the register's value, which is the
word written out here. -/
def Obligations.ExactReadDeliversRegister : Prop :=
  ∀ (s : State) (a : Offset) (r : Reg), HostReads s a → regAt a = some r →
    (s.blk.busy = false ∨
      r ∈ [Reg.id, .params, .cmd, .status, .irqEn, .dataIn, .mode, .digestSize, .blockSize, .rate,
        .capacity, .errAddr, .errData]) →
    step s = .next { hostTaken s with received := regValue s.blk r :: s.received } ∧
    regValue s.blk r =
      (match r with
      | .id => 0x4B454343#32
      | .params => 0x004018#24 ++ BitVec.ofNat 8 Config.roundsPerCycle
      | .cmd => 0#32
      | .status =>
        0#20 ++ BitVec.ofBool s.blk.errCount ++ BitVec.ofBool s.blk.errSeq ++ BitVec.ofBool s.blk.errCmd ++
          BitVec.ofBool s.blk.errBusy ++ 0#4 ++ BitVec.ofBool s.blk.done ++ BitVec.ofBool s.blk.DV ++
          BitVec.ofBool s.blk.inited ++ BitVec.ofBool s.blk.busy
      | .irqEn => 0#30 ++ s.blk.irqEn
      | .dataIn => s.blk.dataIn
      | .count => 0#24 ++ s.blk.n
      | .mode => 0#27 ++ s.blk.P.bit ++ 0#2 ++ s.blk.V.code
      | .digestSize =>
        (match s.blk.V with | .sha3_224 => 28#32 | .sha3_256 => 32#32 | .sha3_384 => 48#32 | .sha3_512 => 64#32)
      | .blockSize =>
        (match s.blk.V with | .sha3_224 => 144#32 | .sha3_256 => 136#32 | .sha3_384 => 104#32 | .sha3_512 => 72#32)
      | .rate =>
        (match s.blk.V with
        | .sha3_224 => 1152#32 | .sha3_256 => 1088#32 | .sha3_384 => 832#32 | .sha3_512 => 576#32)
      | .capacity =>
        (match s.blk.V with
        | .sha3_224 => 448#32 | .sha3_256 => 512#32 | .sha3_384 => 768#32 | .sha3_512 => 1024#32)
      | .errAddr => 0#20 ++ s.blk.errAddr
      | .errData => s.blk.errData
      | .digest j =>
        s.blk.DG[4 * j.val + 3] ++ s.blk.DG[4 * j.val + 2] ++ s.blk.DG[4 * j.val + 1] ++ s.blk.DG[4 * j.val]
      | .state j =>
        s.blk.S[4 * j.val + 3] ++ s.blk.S[4 * j.val + 2] ++ s.blk.S[4 * j.val + 1] ++ s.blk.S[4 * j.val]
      | .buf j =>
        s.blk.B[4 * j.val + 3] ++ s.blk.B[4 * j.val + 2] ++ s.blk.B[4 * j.val + 1] ++ s.blk.B[4 * j.val])

/-- 20_memory.md section 1 (R67): reads have no side effects, and reading twice with no step between
delivers the same word but for the any32 reads, which are drawn afresh. That the two draws are freeBits at
the count and at the count plus one is the model's form of any32 (log 5). -/
def Obligations.ReadsHaveNoSideEffects : Prop :=
  ∀ (s : State) (a : Offset), HostReads s a →
    ∃ (t : State) (v : Word), step s = .next t ∧ t.blk = s.blk ∧ t.received = v :: s.received ∧
      (HostReads t a →
        ∃ (u : State) (w : Word), step t = .next u ∧ u.blk = s.blk ∧ u.received = w :: t.received ∧
          (readIsFree s.blk a = false → w = v) ∧
          (readIsFree s.blk a = true →
            v = Config.freeBits 32 s.draws ∧ w = Config.freeBits 32 (s.draws + 1)))

/-- 10_state.md section 2 (R51) and the model's form of a free value (log 5): while busy, what COUNT,
DIGEST, STATE and BUF deliver does not depend on the block, and every read draws afresh. -/
def Obligations.BusyReadsRevealNothing : Prop :=
  ∀ (s s' : State) (a : Offset) (r : Reg), regAt a = some r →
    (r = .count ∨ (∃ j, r = .digest j) ∨ (∃ j, r = .state j) ∨ ∃ j, r = .buf j) →
    HostReads s a → HostReads s' a → s.blk.busy = true → s'.blk.busy = true → s.draws = s'.draws →
    ∃ (t t' : State) (v : Word), step s = .next t ∧ step s' = .next t' ∧
      t.received = v :: s.received ∧ t'.received = v :: s'.received ∧
      t.draws = s.draws + 1 ∧ t.blk = s.blk

/-- R32, R33: ID and PARAMS read their constants in every state, and ignore writes. -/
def Obligations.IdAndParams : Prop :=
  1 ≤ Config.roundsPerCycle ∧ Config.roundsPerCycle ≤ 24 ∧
  ∀ (s : State) (a : Offset),
    (regAt a = some .id → HostReads s a →
      step s = .next { hostTaken s with received := 0x4B454343#32 :: s.received }) ∧
    (regAt a = some .params → HostReads s a →
      ∃ w : Word, step s = .next { hostTaken s with received := w :: s.received } ∧
        (w.extractLsb' 0 8).toNat = Config.roundsPerCycle ∧ w.extractLsb' 8 8 = 0x18#8 ∧
        w.extractLsb' 16 8 = 0x40#8 ∧ w.extractLsb' 24 8 = 0#8) ∧
    (regAt a = some .id ∨ regAt a = some .params → ∀ d, HostWrites s a d → step s = .next (hostTaken s))

/-- 10_state.md section 2 (R35): every bit of STATUS. -/
def Obligations.StatusLayout : Prop :=
  ∀ (b : Block) (i : Nat), (regValue b .status).getLsbD i =
    (if i = 0 then b.busy else if i = 1 then b.inited else if i = 2 then b.DV else if i = 3 then b.done
    else if i = 8 then b.errBusy else if i = 9 then b.errCmd else if i = 10 then b.errSeq
    else if i = 11 then b.errCount else false)

/-- 10_state.md section 2 (R31, R35 to R38), 60_exceptions.md section 3 (R213): a write to STATUS clears
exactly the W1C flags written as 1. -/
def Obligations.StatusWriteClearsOnes : Prop :=
  ∀ (s : State) (a : Offset) (d : Word), HostWrites s a d → regAt a = some .status →
    step s = .next { hostTaken s with blk :=
      { s.blk with
        done := s.blk.done && !d.getLsbD 3
        errBusy := s.blk.errBusy && !d.getLsbD 8
        errCmd := s.blk.errCmd && !d.getLsbD 9
        errSeq := s.blk.errSeq && !d.getLsbD 10
        errCount := s.blk.errCount && !d.getLsbD 11 } }

/-- R44: the metadata registers, from V, and read-only; and their invariants (43_facade.md section 2,
R173). -/
def Obligations.Metadata : Prop :=
  Block.reset.V = .sha3_224 ∧
  (∀ (s : State) (a : Offset) (d : Word) (r : Reg), r ∈ [Reg.digestSize, .blockSize, .rate, .capacity] →
    regAt a = some r → HostWrites s a d → step s = .next (hostTaken s)) ∧
  ∀ b : Block,
    ((regValue b .digestSize).toNat, (regValue b .blockSize).toNat, (regValue b .rate).toNat,
      (regValue b .capacity).toNat) =
      (match b.V with
      | .sha3_224 => (28, 144, 1152, 448)
      | .sha3_256 => (32, 136, 1088, 512)
      | .sha3_384 => (48, 104, 832, 768)
      | .sha3_512 => (64, 72, 576, 1024)) ∧
    (regValue b .blockSize).toNat * 8 = (regValue b .rate).toNat ∧
    (regValue b .rate).toNat + (regValue b .capacity).toNat = 1600 ∧
    (finalize b.S b.B b.n.toNat b.V b.P).length = (regValue b .digestSize).toNat ∧
    (hexDigest (finalize b.S b.B b.n.toNat b.V b.P)).length = 2 * (regValue b .digestSize).toNat

/-- R45: MODE's fields, read-only, and the only steps that change V and P (a power cycle is the model's:
log 9). -/
def Obligations.ModeAndItsWriters : Prop :=
  (∀ b : Block, (regValue b .mode).extractLsb' 0 2 = b.V.code ∧
    (regValue b .mode).extractLsb' 4 1 = b.P.bit ∧
    ∀ i, i ≠ 0 → i ≠ 1 → i ≠ 4 → (regValue b .mode).getLsbD i = false) ∧
  (∀ (s : State) (a : Offset) (d : Word), regAt a = some .mode → HostWrites s a d →
    step s = .next (hostTaken s)) ∧
  ∀ s t : State, step s = .next t → t.blk.V ≠ s.blk.V ∨ t.blk.P ≠ s.blk.P →
    ResetsBlock s ∨ ∃ v p, Completes s (.init v p) ∧ t.blk.V = v ∧ t.blk.P = p

/-- R41: IRQ_EN. -/
def Obligations.IrqEnRegister : Prop :=
  ∀ (s : State) (a : Offset), regAt a = some .irqEn →
    (HostReads s a → step s = .next { hostTaken s with received := s.blk.irqEn.setWidth 32 :: s.received }) ∧
    ∀ d : Word, HostWrites s a d →
      step s = .next { hostTaken s with blk := { s.blk with irqEn := d.extractLsb' 0 2 } }

/-- R42: DATA_IN, and the bytes the next ABSORB takes from it. -/
def Obligations.DataInRegister : Prop :=
  (∀ (s : State) (a : Offset), regAt a = some .dataIn →
    (HostReads s a → step s = .next { hostTaken s with received := s.blk.dataIn :: s.received }) ∧
    ∀ d : Word, HostWrites s a d → step s = .next { hostTaken s with blk := { s.blk with dataIn := d } }) ∧
  (∀ (s : State) (k : BitVec 3), s.actor = .host → s.blk.busy = false → s.blk.inited = true →
    k.toNat ≤ 4 → ∃ t, exec (.absorb k) s = .next t ∧
      t.blk.pend = some ⟨0x02#8, k.setWidth 8, s.blk.dataIn⟩) ∧
  ∀ (k : Nat) (d : Word), inputBytes k d = (List.range k).map fun j => d.extractLsb' (8 * j) 8

/-- R43: COUNT. -/
def Obligations.CountRegister : Prop :=
  ∀ (s : State) (a : Offset), regAt a = some .count →
    (HostReads s a → s.blk.busy = false →
      step s = .next { hostTaken s with received := s.blk.n.setWidth 32 :: s.received }) ∧
    ∀ d : Word, HostWrites s a d →
      (s.blk.busy = true → step s = .next { hostTaken s with blk := raiseErr .busy 0x018#12 d s.blk }) ∧
      (s.blk.busy = false → rb s.blk.V ≤ d.toNat →
        step s = .next { hostTaken s with blk := raiseErr .count 0x018#12 d s.blk }) ∧
      (s.blk.busy = false → d.toNat < rb s.blk.V →
        ∃ n : BitVec 8, n.toNat = d.toNat ∧
          step s = .next { hostTaken s with blk := { s.blk with n := n, DV := false } })

/-- R47: DIGEST[j], and where each digest byte sits. -/
def Obligations.DigestWindow : Prop :=
  (∀ (s : State) (a : Offset) (j : Fin 16), regAt a = some (.digest j) → HostReads s a →
    s.blk.busy = false → step s = .next { hostTaken s with received := le32 s.blk.DG (4 * j.val) :: s.received }) ∧
  ∀ (b : Block) (i : Fin 64),
    (regValue b (.digest ⟨i.val / 4, by omega⟩)).extractLsb' (8 * (i.val % 4)) 8 = b.DG[i]

/-- R48: STATE[j]: reads, the two halves of a lane, writes, and the rejection while busy. -/
def Obligations.StateWindow : Prop :=
  (∀ (s : State) (a : Offset) (j : Fin 50), regAt a = some (.state j) →
    (HostReads s a → s.blk.busy = false →
      step s = .next { hostTaken s with received := le32 s.blk.S (4 * j.val) :: s.received }) ∧
    ∀ d : Word, HostWrites s a d →
      (s.blk.busy = true → step s = .next { hostTaken s with blk := raiseErr .busy (Reg.state j).offset d s.blk }) ∧
      (s.blk.busy = false → ∃ S' : Bytes 200,
        step s = .next { hostTaken s with blk := { s.blk with S := S', DV := false } } ∧
        ∀ i : Fin 200, S'[i] =
          if 4 * j.val ≤ i.val ∧ i.val < 4 * j.val + 4 then d.extractLsb' (8 * (i.val - 4 * j.val)) 8
          else s.blk.S[i])) ∧
  ∀ (b : Block) (x y : Fin 5),
    regValue b (.state ⟨2 * (x.val + 5 * y.val), by omega⟩) =
      (lane (lanesOf b.S) x.val y.val).extractLsb' 0 32 ∧
    regValue b (.state ⟨2 * (x.val + 5 * y.val) + 1, by omega⟩) =
      (lane (lanesOf b.S) x.val y.val).extractLsb' 32 32

/-- R49: BUF[j]: reads, writes, the rejection while busy, and the words beyond the block size, which no
hash result reads, whatever is absorbed after. -/
def Obligations.BufWindow : Prop :=
  (∀ (s : State) (a : Offset) (j : Fin 36), regAt a = some (.buf j) →
    (HostReads s a → s.blk.busy = false →
      step s = .next { hostTaken s with received := le32 s.blk.B (4 * j.val) :: s.received }) ∧
    ∀ d : Word, HostWrites s a d →
      (s.blk.busy = true → step s = .next { hostTaken s with blk := raiseErr .busy (Reg.buf j).offset d s.blk }) ∧
      (s.blk.busy = false → ∃ B' : Bytes 144,
        step s = .next { hostTaken s with blk := { s.blk with B := B', DV := false } } ∧
        ∀ i : Fin 144, B'[i] =
          if 4 * j.val ≤ i.val ∧ i.val < 4 * j.val + 4 then d.extractLsb' (8 * (i.val - 4 * j.val)) 8
          else s.blk.B[i])) ∧
  ∀ (b : Block) (j : Fin 36) (d : Word) (more : List Byte), b.n.toNat < rb b.V → rb b.V / 4 ≤ j.val →
    let x := absorbBytes { b with B := setLe32 b.B (4 * j.val) d } more
    let y := absorbBytes b more
    finalize x.S x.B x.n.toNat x.V x.P = finalize y.S y.B y.n.toNat y.V y.P

/-! ### Reset, power, refused stores (70_reset_and_hazards.md, 20_memory.md R64) -/

/-- R230: a clock edge with rst_n = 0, element by element, from every state, with or without a 32-bit access
presented in it; irq is low. W and RC_IDX are free (log 6). -/
def Obligations.ResetEdge : Prop :=
  ∀ s : State,
    nextTurn s = .reset ∨
      (nextTurn s = .resetWithAccess ∧ ∀ size a d, s.host.head? ≠ some (.wrNarrow size a d)) →
    ∃ t : State, step s = .next t ∧
      t.blk.S = Vector.replicate 200 0 ∧ t.blk.B = Vector.replicate 144 0 ∧
      t.blk.DG = Vector.replicate 64 0 ∧ t.blk.dataIn = 0 ∧ t.blk.errAddr = 0 ∧ t.blk.errData = 0 ∧
      t.blk.n = 0 ∧ t.blk.V = .sha3_224 ∧ t.blk.P = .keccak ∧ t.blk.inited = false ∧
      t.blk.DV = false ∧ t.blk.done = false ∧ t.blk.errBusy = false ∧ t.blk.errCmd = false ∧
      t.blk.errSeq = false ∧ t.blk.errCount = false ∧ t.blk.irqEn = 0 ∧ t.blk.busy = false ∧
      t.blk.pend = none ∧ irq t.blk = false ∧
      (∀ r, r = .params ∨ regValue t.blk r =
        (match r with
        | .id => 0x4B454343#32
        | .digestSize => 0x1C#32
        | .blockSize => 0x90#32
        | .rate => 0x480#32
        | .capacity => 0x1C0#32
        | _ => 0#32)) ∧
      regValue t.blk .params = 0x00401800#32 ||| BitVec.ofNat 32 Config.roundsPerCycle ∧
      t.wasReset = true ∧ (nextTurn s = .reset → t.host = s.host ∧ t.received = s.received)

/-- 43_facade.md section 2 (R180), 70_reset_and_hazards.md section 1 (R235): an SRESET write leaves the
block a reset edge leaves from the same state, also while busy; no other word with that opcode does. That W
and RC_IDX, which the spec leaves unspecified (R233), agree too is the model's: both are the draws of the
same count (logs 5, 6). -/
def Obligations.SresetEqualsReset : Prop :=
  (∀ (s : State) (a : Offset), HostWrites s a 0x0000000F#32 → regAt a = some .cmd →
    ∃ t, step s = .next t ∧ t.blk = (hardReset s).blk ∧ t.blk.done = false ∧ t.blk.pend = none) ∧
  ∀ c : Word, c.extractLsb' 0 8 = 0x0F#8 → c ≠ 0x0000000F#32 → illegalWord c = true

/-- 70_reset_and_hazards.md section 1 (R231): while rst_n = 0 a write has no effect and a read delivers a
free value (log 10). -/
def Obligations.AccessUnderReset : Prop :=
  ∀ s : State, nextTurn s = .resetWithAccess →
    (∀ a d, s.host.head? = some (.wr a d) → step s = .next (hardReset (hostTaken s))) ∧
    (∀ a, s.host.head? = some (.rd a) → ∃ t, step s = .next t ∧
      t.received = Config.freeBits 32 s.draws :: s.received ∧
      t.blk = (hardReset { s with draws := s.draws + 1 }).blk)

/-- 70_reset_and_hazards.md section 1 (R232), 20_memory.md section 1 (R64), U2 and U4: before the first
reset a turn of either agent is stuck; a reset edge goes on, with or without a 32-bit access presented, and
is the first reset. A sub-word store is refused. The model's: another power cycle goes on too and is no
reset (log 9); a sub-word store is an access of its own (log 7), refused also under reset (log 10). -/
def Obligations.WhereTheModelStops : Prop :=
  ∀ s : State,
    (s.wasReset = false →
      (nextTurn s = .host ∨ nextTurn s = .engine → step s = .fault .beforeFirstReset) ∧
      (nextTurn s = .reset ∨
          (nextTurn s = .resetWithAccess ∧ ∀ size a d, s.host.head? ≠ some (.wrNarrow size a d)) →
        ∃ t, step s = .next t ∧ t.wasReset = true) ∧
      (nextTurn s = .powerCycle → ∃ t, step s = .next t ∧ t.wasReset = false)) ∧
    ∀ (size : Narrow) (a : Offset) (d : Word), s.host.head? = some (.wrNarrow size a d) →
      HostTurn s ∨ nextTurn s = .resetWithAccess → step s = .refused .subWordStore

/-! ### Rules of the whole machine -/

/-- R52: an accepted command changes S, B, n, V, P, INITED, DV and DG only at its completion: while a
command is pending no step but its completion or a reset changes them, and accepting one changes none. -/
def Obligations.EffectsOnlyAtCompletion : Prop :=
  ∀ s t : State, step s = .next t → ¬ResetsBlock s →
    (s.blk.busy = true ∧ (∀ i, ¬Completes s i)) ∨ (∃ a d, HostWrites s a d ∧ regAt a = some .cmd) →
    t.blk.S = s.blk.S ∧ t.blk.B = s.blk.B ∧ t.blk.n = s.blk.n ∧ t.blk.V = s.blk.V ∧ t.blk.P = s.blk.P ∧
      t.blk.inited = s.blk.inited ∧ t.blk.DV = s.blk.DV ∧ t.blk.DG = s.blk.DG ∧
      regValue t.blk .mode = regValue s.blk .mode ∧
      regValue t.blk .digestSize = regValue s.blk .digestSize ∧
      regValue t.blk .blockSize = regValue s.blk .blockSize ∧
      regValue t.blk .rate = regValue s.blk .rate ∧
      regValue t.blk .capacity = regValue s.blk .capacity ∧
      (regValue t.blk .status).extractLsb' 1 2 = (regValue s.blk .status).extractLsb' 1 2

/-- 10_state.md section 1 (R22): the only steps that change S. -/
def Obligations.StateBytesWriters : Prop :=
  ∀ s t : State, step s = .next t → t.blk.S ≠ s.blk.S →
    ResetsBlock s ∨ (∃ v p, Completes s (.init v p)) ∨ (∃ k, Completes s (.absorb k)) ∨
      Completes s .permute ∨
      ∃ a j d, HostWrites s a d ∧ regAt a = some (.state j) ∧ s.blk.busy = false

/-- 10_state.md section 1 (R27): what sets and what clears DV, and what writes DG. That INIT is
no writer of DG is R27 with D33 and U13, against one line of 43_facade.md R175 (log 21). -/
def Obligations.DigestValidRule : Prop :=
  ∀ s t : State, step s = .next t → nextTurn s ≠ .powerCycle →
    (s.blk.DV = false → t.blk.DV = true → Completes s .final) ∧
    (ResetsBlock s ∨ (∃ v p, Completes s (.init v p)) ∨ (∃ k, Completes s (.absorb k)) ∨
      Completes s .permute → t.blk.DV = false) ∧
    (∀ a d r, HostWrites s a d → regAt a = some r → rejection s.blk a d = none →
      (r = .count ∨ (∃ j, r = .state j) ∨ ∃ j, r = .buf j) → t.blk.DV = false) ∧
    (t.blk.DG ≠ s.blk.DG → ResetsBlock s ∨ Completes s .final)

/-- R26: what sets and what clears INITED, and the rejection of ABSORB and FINAL while it is 0: with ERR_SEQ
when the block is idle and the word legal (R203), with the error that comes before it in R206's order
otherwise, the capture of R205, and no other change (R207). -/
def Obligations.InitedRule : Prop :=
  (∀ s t : State, step s = .next t → nextTurn s ≠ .powerCycle →
    (ResetsBlock s → t.blk.inited = false) ∧
    (∀ v p, Completes s (.init v p) → t.blk.inited = true) ∧
    (t.blk.inited ≠ s.blk.inited → ResetsBlock s ∨ ∃ v p, Completes s (.init v p))) ∧
  ∀ (s : State) (i : Instr), s.actor = .host → s.blk.inited = false → needsInit i = true →
    exec i s = .next { s with blk :=
      { s.blk with
        errBusy := s.blk.errBusy || s.blk.busy
        errCmd := s.blk.errCmd || (!s.blk.busy && !i.wf)
        errSeq := s.blk.errSeq || (!s.blk.busy && i.wf)
        errAddr := if anyErr s.blk then s.blk.errAddr else 0x008#12
        errData := if anyErr s.blk then s.blk.errData else encode i } }

/-- 20_memory.md section 1 (R61, R66), 60_exceptions.md section 4 (R221): on a block that has been reset,
every step from a state that meets the invariant goes on, but for a sub-word store; and the engine's step
with BUSY = 1 completes the pending command: BUSY falls and DONE rises. The model's: a turn with no step to
take passes (log 4), and PEND is empty after a completion (log 20). -/
def Obligations.NoStepIsStuck : Prop :=
  ∀ s : State, s.Inv → s.wasReset = true →
    ((∀ size a d, s.host.head? ≠ some (.wrNarrow size a d)) → ∃ t, step s = .next t) ∧
    (nextTurn s = .engine → s.blk.busy = true →
      ∃ t, step s = .next t ∧ t.blk.busy = false ∧ t.blk.done = true ∧ t.blk.pend = none)

/-- 10_state.md section 3 (R55), section 1 (R24, R29): the invariant holds at reset. (That the model's reset
state counts as reset: log 9.) -/
def Obligations.ResetMeetsInvariant : Prop := State.reset.Inv ∧ State.reset.wasReset = true

/-- 10_state.md section 3 (R55), section 1 (R24, R29): every step keeps the invariant: n < rb; BUSY and
PEND agree (PEND empty while BUSY = 0: the model's, log 20) and PEND holds a command its acceptance let in;
INITED = 0 gives DV = 0; and DV = 1 gives that DG is the digest of the live content. -/
def Obligations.StepKeepsInvariant : Prop :=
  ∀ s t : State, s.Inv → step s = .next t → t.Inv

/-- 30_encoding.md section 4 (R104, R105): the WAIT loop ends under every finite schedule of the agents,
with BUSY = 0, however many polls it takes. The model's: the order of turns once the schedule is exhausted
(log 1), and WAIT as one access of the host's list (log 17). -/
def Obligations.WaitEnds : Prop :=
  ∀ (s : State) (rest : List HostOp), s.Inv → s.wasReset = true → s.host = .wait :: rest →
    AgentsOnly s.sched →
    ∃ t, Reaches s t ∧ t.host = rest ∧ t.blk.busy = false

/-! ### The permutation engine (41_permutation.md) -/

/-- 41_permutation.md section 1 (R112): the lane view and its inverse. -/
def Obligations.LaneViewInverse : Prop :=
  (∀ S : Bytes 200, bytesOf (lanesOf S) = S) ∧ ∀ A : Lanes, lanesOf (bytesOf A) = A

/-- 41_permutation.md section 2 (R115, R120): the offset table and the round constants satisfy their
defining formulas. -/
def Obligations.TablesMeetFormulas : Prop :=
  rhoOffset 0 0 = 0 ∧
  (∀ t : Fin 24, rhoOffset (rhoWalk t.val).1 (rhoWalk t.val).2 = (t.val + 1) * (t.val + 2) / 2 % 64) ∧
  (∀ x y : Fin 5, (x, y) ≠ (0, 0) → ∃ t : Fin 24, rhoWalk t.val = (x.val, y.val)) ∧
  ∀ i : Fin 24, RC i.val = rcFormula i.val

/-- 41_permutation.md section 2 (R116, R121): π in its other form, and ρ with π and χ as one lane move. -/
def Obligations.MergedLaneMove : Prop :=
  (∀ (A : Lanes) (x y : Fin 5), lane (piStep A) y.val (2 * x.val + 3 * y.val) = lane A x.val y.val) ∧
  ∀ (A Bm : Lanes),
    (∀ x y : Fin 5, lane Bm y.val (2 * x.val + 3 * y.val) = rot (lane A x.val y.val) (rhoOffset x.val y.val)) →
    ∀ x y : Fin 5, lane (chi (piStep (rho A))) x.val y.val =
      lane Bm x.val y.val ^^^ (~~~(lane Bm (x.val + 1) y.val) &&& lane Bm (x.val + 2) y.val)

/-- R124 (with R123): every build's engine, whatever its lane representation and its rounds per pass,
computes f; RC_IDX ends at 24; the passes of the 5-round datapath are rounds 0-4, 5-9, 10-14, 15-19, 20-23. -/
def Obligations.EveryBuildComputesF : Prop :=
  (∀ (dl : DatapathLane) (R : Nat) (S : Bytes 200), 1 ≤ R →
    engineF dl R S = keccakF S ∧ (enginePasses dl R (passCount R) (lanesOf S, 0)).2 = 24) ∧
  (∀ (dl : DatapathLane) (R : Nat) (A : Lanes) (i : Nat), 1 ≤ R → i ≤ 24 →
    (enginePass dl R (A, i)).2 = min (i + R) 24 ∧
    (enginePass dl R (A, i)).1 = (List.range' i (min (i + R) 24 - i)).foldl keccakRound A) ∧
  (∀ (dl : DatapathLane) (A : Lanes),
    [1, 2, 3, 4, 5].map (fun k => (enginePasses dl 5 k (A, 0)).2) = [5, 10, 15, 20, 24]) ∧
  ∀ S : Bytes 200, thisEngine S = keccakF S

/-- 41_permutation.md section 1 (R111): f is a bijection on 1600-bit values. -/
def Obligations.KeccakFBijective : Prop := Function.Bijective keccakF

/-! ### The sponge (42_sponge.md) -/

/-- 42_sponge.md section 2 (R149): absorption XORs into the rate alone; the capacity bytes enter f as they
were. -/
def Obligations.CapacityIsolation : Prop :=
  ∀ (V : Variant) (X : Bytes 200) (blk : Bytes (rb V)),
    absorbBlock X blk = keccakF (xorBlock X blk) ∧
    (∀ i : Fin 200, rb V ≤ i.val → (xorBlock X blk)[i] = X[i]) ∧
    ∀ i : Fin 200, i.val < rb V → (xorBlock X blk)[i] = X[i] ^^^ blk.getD i.val 0

/-- R150: PadBlock is B[0..n) and zeros, with DS(P) XORed into byte n and 0x80 into byte rb-1; and no byte
of B from n on affects it. -/
def Obligations.PadBlockRule : Prop :=
  (∀ (B : Bytes 144) (n : Nat) (P : PadMode) (V : Variant), n < rb V →
    (padBlock B n P (rb V)).toList =
      let blk := B.toList.take n ++ List.replicate (rb V - n) 0
      let blk := blk.set n (blk.getD n 0 ^^^ (match P with | .keccak => 0x01#8 | .fips202 => 0x06#8))
      blk.set (rb V - 1) (blk.getD (rb V - 1) 0 ^^^ 0x80#8)) ∧
  ∀ (B B' : Bytes 144) (n : Nat) (P : PadMode) (V : Variant),
    (∀ i, i < n → B.getD i 0 = B'.getD i 0) → padBlock B n P (rb V) = padBlock B' n P (rb V)

/-- R153 and section 4 of 42_sponge.md (R155): the general squeeze loop, for every output length and every
block size up to the state's; and for the four variants it copies out once. -/
def Obligations.SqueezeLoop : Prop :=
  (∀ (W : Bytes 200) (out r : Nat), 1 ≤ r → r ≤ 200 →
    (squeeze W out r).length = out ∧
    ∀ i, i < out → (squeeze W out r).getD i 0 = (Nat.iterate keccakF (i / r) W).getD (i % r) 0) ∧
  (∀ V : Variant, outLen V ≤ rb V) ∧
  ∀ (V : Variant) (W : Bytes 200), squeeze W (outLen V) (rb V) = W.toList.take (outLen V)

/-- R156: FINAL writes all of DG, zeros after the digest, and the DIGEST words beyond it read 0. -/
def Obligations.DigestRegisterWrite : Prop :=
  ∀ (s : State), Completes s .final →
    ∃ t, step s = .next t ∧
      t.blk.DG.toList = finalize s.blk.S s.blk.B s.blk.n.toNat s.blk.V s.blk.P ++
        List.replicate (64 - outLen s.blk.V) 0 ∧
      (∀ j : Fin 16, outLen s.blk.V ≤ 4 * j.val → regValue t.blk (.digest j) = 0) ∧
      (s.blk.V = .sha3_224 → ∀ j : Fin 16, 7 ≤ j.val → regValue t.blk (.digest j) = 0)

/-- 42_sponge.md section 4 (R158): two FINAL commands in a row leave the same DG, and the live content. The model's: the order of turns
once the schedule is exhausted (log 1), and WAIT as one access (log 17). -/
def Obligations.FinalTwiceSameDigest : Prop :=
  ∀ (s : State) (rest : List HostOp) (sched : List Turn), Ready s → s.blk.inited = true →
    AgentsOnly sched →
    ∃ t u : State,
      Reaches (withProgram s (issueOps .final ++ (issueOps .final ++ rest)) sched) t ∧
      t.host = issueOps .final ++ rest ∧ Reaches t u ∧ u.host = rest ∧
      t.blk.DV = true ∧ u.blk.DV = true ∧ u.blk.DG = t.blk.DG ∧
      u.blk.S = s.blk.S ∧ u.blk.B = s.blk.B ∧ u.blk.n = s.blk.n

/-! ### Headlines: host programs on the machine -/

/-- 42_sponge.md section 2 (R147): stream-splitting invariance. Two sequences of ABSORBW with the same bytes
in the same order, under any schedules, leave the same S, B and n. The model's: the order of turns
once the schedule is exhausted (log 1), and WAIT as one access (log 17). -/
def Obligations.StreamSplittingInvariance : Prop :=
  ∀ (s : State) (l l' : List (BitVec 3 × Word)) (rest : List HostOp) (sched sched' : List Turn),
    Ready s → s.blk.inited = true → (∀ q ∈ l, q.1.toNat ≤ 4) → (∀ q ∈ l', q.1.toNat ≤ 4) →
    (l.flatMap fun q => inputBytes q.1.toNat q.2) = (l'.flatMap fun q => inputBytes q.1.toNat q.2) →
    AgentsOnly sched → AgentsOnly sched' →
    ∃ t t' : State,
      Reaches (withProgram s ((l.flatMap fun q => absorbW q.1 q.2) ++ rest) sched) t ∧ t.host = rest ∧
      Reaches (withProgram s ((l'.flatMap fun q => absorbW q.1 q.2) ++ rest) sched') t' ∧ t'.host = rest ∧
      t.blk.S = t'.blk.S ∧ t.blk.B = t'.blk.B ∧ t.blk.n = t'.blk.n

/-- 42_sponge.md sections 2 to 4 (R146, R154), 43_facade.md section 2 (R174, R176, R177): a hash computed
by INIT, HASHBYTES and FINAL on any idle block, under any schedule, leaves in DG the one-shot sponge hash
of the whole message, for every variant, padding mode and message. The model's: the order of turns
once the schedule is exhausted (log 1), and WAIT as one access (log 17). -/
def Obligations.DigestIsHashOfMessage : Prop :=
  ∀ (s : State) (V : Variant) (P : PadMode) (m : List Byte) (rest : List HostOp) (sched : List Turn),
    Ready s → AgentsOnly sched →
    ∃ t : State,
      Reaches (withProgram s (issueOps (.init V P) ++ (hashBytes m ++ (issueOps .final ++ rest))) sched) t ∧
      t.host = rest ∧ t.blk.busy = false ∧ t.blk.DV = true ∧ t.blk.V = V ∧ t.blk.P = P ∧
      t.blk.DG = digestReg (hashOf V P m) ∧ (hashOf V P m).length = outLen V

/-- 43_facade.md section 3 (R183): SAVECTX on an idle block reads the context and leaves the block as it
was. The model's: the order of turns once the schedule is exhausted (log 1), and which words `received`
keeps (every read but WAIT's polls: logs 2, 17). -/
def Obligations.SaveContextReads : Prop :=
  ∀ (s : State) (rest : List HostOp) (sched : List Turn), Ready s → AgentsOnly sched →
    ∃ t : State, Reaches (withProgram s (saveCtx ++ rest) sched) t ∧ t.host = rest ∧ t.blk = s.blk ∧
      t.received = (ctxOf s.blk).words.reverse ++ s.received

/-- 43_facade.md section 3 (R182, R184, R185): LOADCTX of the context of `a` into any idle core `c`, under
any schedule, gives `c` the same (V, P, S, B, n), so that it computes the same digest; DV = 0, and no
error is raised. The model's: the order of turns
once the schedule is exhausted (log 1), and WAIT as one access (log 17). -/
def Obligations.LoadContextCopies : Prop :=
  ∀ (a : Block) (c : State) (rest : List HostOp) (sched : List Turn),
    a.n.toNat < rb a.V → Ready c → AgentsOnly sched →
    ∃ t : State, Reaches (withProgram c (loadCtx (ctxOf a) ++ rest) sched) t ∧ t.host = rest ∧
      t.blk.V = a.V ∧ t.blk.P = a.P ∧ t.blk.S = a.S ∧ t.blk.B = a.B ∧ t.blk.n = a.n ∧
      t.blk.inited = true ∧ t.blk.DV = false ∧ t.blk.busy = false ∧
      (∀ k, errFlag k t.blk = errFlag k c.blk) ∧
      finalize t.blk.S t.blk.B t.blk.n.toNat t.blk.V t.blk.P = finalize a.S a.B a.n.toNat a.V a.P
end

