-- ==== Sys2Proof/Laws/Bytes.lean ====
section
/-! SUPPORT. The laws of the byte arrays: what a 32-bit window reads of them and what a write to one
changes (10_state.md R47 to R49, 00_scope.md R10). -/

namespace Sys2Proof.Machine

/-- Reading a vector with a default. -/
theorem getD_vector {α : Type} {n : Nat} (v : Vector α n) (i : Nat) (d : α) :
    v.getD i d = if h : i < n then v[i] else d := by
  simp [Vector.getD, Array.getD]

/-- Byte j of the word made of four bytes. -/
theorem wordByte_wordOfBytes (a b c d : Byte) {j : Nat} (hj : j < 4) :
    wordByte (wordOfBytes a b c d) j = [a, b, c, d].getD j 0 := by
  have hj' : j = 0 ∨ j = 1 ∨ j = 2 ∨ j = 3 := by omega
  unfold wordByte wordOfBytes
  apply BitVec.eq_of_getLsbD_eq
  intro k hk
  rcases hj' with rfl | rfl | rfl | rfl
  all_goals
    rw [BitVec.getLsbD_extractLsb']
    repeat rw [BitVec.getLsbD_append]
    simp only [hk, decide_true, Bool.true_and]
    split
    · first | omega | simp
    · split
      · first | omega | simp
      · split
        · first | omega | (simp; congr 1; omega)
        · first | omega | (simp; congr 1; omega)

/-- Byte j of `LE32(b[i..i+4))` is `b[i + j]`. -/
theorem wordByte_le32 {m : Nat} (b : Bytes m) (i : Nat) {j : Nat} (hj : j < 4) :
    wordByte (le32 b i) j = b.getD (i + j) 0 := by
  have h := wordByte_wordOfBytes (b.getD i 0) (b.getD (i + 1) 0) (b.getD (i + 2) 0) (b.getD (i + 3) 0) hj
  have hj' : j = 0 ∨ j = 1 ∨ j = 2 ∨ j = 3 := by omega
  rcases hj' with rfl | rfl | rfl | rfl <;> exact h

/-- Two words with the same four bytes are the same word. -/
theorem word_ext {v w : Word} (h : ∀ j < 4, wordByte v j = wordByte w j) : v = w := by
  apply BitVec.eq_of_getLsbD_eq
  intro i hi
  have hb := congrArg (fun x => x.getLsbD (i % 8)) (h (i / 8) (by omega))
  simp only [wordByte, BitVec.getLsbD_extractLsb', show i % 8 < 8 by omega, decide_true,
    Bool.true_and] at hb
  rwa [show 8 * (i / 8) + i % 8 = i by omega] at hb

/-- Every byte after a 32-bit write: the written word's bytes, the others as before. -/
theorem setLe32_getElem {m : Nat} (b : Bytes m) (i : Nat) (d : Word) (k : Fin m) :
    (setLe32 b i d)[k] = if i ≤ k.val ∧ k.val < i + 4 then wordByte d (k.val - i) else b[k] := by
  simp [setLe32, Vector.getD]

/-- The same through the reading with a default. -/
theorem setLe32_getD {m : Nat} (b : Bytes m) (i : Nat) (d : Word) (k : Nat) :
    (setLe32 b i d).getD k 0 =
      if i ≤ k ∧ k < i + 4 ∧ k < m then wordByte d (k - i) else b.getD k 0 := by
  by_cases hk : k < m
  · have h := setLe32_getElem b i d ⟨k, hk⟩
    simp only [Fin.getElem_fin] at h
    rw [getD_vector, dif_pos hk, h, getD_vector, dif_pos hk]
    simp [hk]
  · rw [getD_vector, dif_neg hk, if_neg (by omega), getD_vector, dif_neg hk]

/-- Read after write: the window gives the word written. -/
theorem le32_setLe32 {m : Nat} (b : Bytes m) {i : Nat} (d : Word) (h : i + 4 ≤ m) :
    le32 (setLe32 b i d) i = d := by
  apply word_ext
  intro j hj
  rw [wordByte_le32 _ _ hj, setLe32_getD, if_pos (by omega), Nat.add_sub_cancel_left]

/-- A write to one window leaves every window that does not overlap it alone. -/
theorem le32_setLe32_of_disjoint {m : Nat} (b : Bytes m) {i k : Nat} (d : Word)
    (h : i + 4 ≤ k ∨ k + 4 ≤ i) : le32 (setLe32 b i d) k = le32 b k := by
  apply word_ext
  intro j hj
  rw [wordByte_le32 _ _ hj, wordByte_le32 _ _ hj, setLe32_getD, if_neg (by omega)]

/-- The low half of a lane is the lower word (10_state.md R48). -/
theorem le64_low {m : Nat} (b : Bytes m) (i : Nat) : (le64 b i).extractLsb' 0 32 = le32 b i := by
  unfold le64
  apply BitVec.eq_of_getLsbD_eq
  intro k hk
  rw [BitVec.getLsbD_extractLsb', BitVec.getLsbD_append]
  simp [hk]

/-- The high half of a lane is the upper word (10_state.md R48). -/
theorem le64_high {m : Nat} (b : Bytes m) (i : Nat) : (le64 b i).extractLsb' 32 32 = le32 b (i + 4) := by
  unfold le64
  apply BitVec.eq_of_getLsbD_eq
  intro k hk
  rw [BitVec.getLsbD_extractLsb', BitVec.getLsbD_append]
  simp [hk]

end Sys2Proof.Machine
end

