-- ==== Sys2Proof/Laws/Encoding.lean ====
section
/-! SUPPORT. The laws of the decoder: what each argument decoder accepts, and the fields of a word that
decodes (30_encoding.md R90 to R98). -/

namespace Sys2Proof

/-- A word with RSV zero is its two fields put together. -/
theorem cmdWord_fields {c : Word} (h : rsvField c = 0#16) : cmdWord (opField c) (argField c) = c := by
  unfold cmdWord opField argField
  rw [← h]
  unfold rsvField
  apply BitVec.eq_of_getLsbD_eq
  intro i hi
  simp only [BitVec.getLsbD_append, BitVec.getLsbD_extractLsb']
  split
  · simp_all
  · split
    · have h8 : i - 8 < 8 := by omega
      simp [h8]
      congr 1
      omega
    · have h16 : i - 8 - 8 < 16 := by omega
      simp [h16]
      congr 1
      omega

/-- A command without operands decodes from a zero argument byte alone. -/
theorem decodePlain_ok {j i : Instr} {a : Byte} (h : decodePlain j a = .ok i) : i = j ∧ a = 0x00#8 := by
  unfold decodePlain at h
  split at h <;> simp_all

/-- What INIT's argument decoder accepts, it reads back to the same argument. -/
theorem decodeInit_ok {a : Byte} {i : Instr} (h : decodeInit a = .ok i) :
    i.wf = true ∧ i.op = 0x01#8 ∧ i.arg = a := by
  have hall : ∀ a : Byte, (match decodeInit a with
      | .ok i => i.wf && decide (i.op = 0x01#8) && decide (i.arg = a)
      | .error _ => true) = true := by decide +kernel
  have ha := hall a
  rw [h] at ha
  simpa [and_assoc] using ha

/-- What ABSORB's argument decoder accepts, it reads back to the same argument. -/
theorem decodeAbsorb_ok {a : Byte} {i : Instr} (h : decodeAbsorb a = .ok i) :
    i.wf = true ∧ i.op = 0x02#8 ∧ i.arg = a := by
  have hall : ∀ a : Byte, (match decodeAbsorb a with
      | .ok i => i.wf && decide (i.op = 0x02#8) && decide (i.arg = a)
      | .error _ => true) = true := by decide +kernel
  have ha := hall a
  rw [h] at ha
  simpa [and_assoc] using ha

/-- The fields of a word that decodes are those of the instruction it decodes to. -/
theorem decode_ok_fields {c : Word} {i : Instr} (h : decode c = .ok i) :
    i.wf = true ∧ rsvField c = 0#16 ∧ i.op = opField c ∧ i.arg = argField c := by
  unfold decode at h
  split at h
  · cases h
  · next h0 =>
    have h0 : rsvField c = 0#16 := by simpa using h0
    repeat
      split at h
      · next ho =>
        first
        | (obtain ⟨rfl, ha⟩ := decodePlain_ok h; rw [ho, ha]; exact ⟨rfl, h0, rfl, rfl⟩)
        | (obtain ⟨hw, ho', ha⟩ := decodeInit_ok h; exact ⟨hw, h0, ho'.trans ho.symm, ha⟩)
        | (obtain ⟨hw, ho', ha⟩ := decodeAbsorb_ok h; exact ⟨hw, h0, ho'.trans ho.symm, ha⟩)
    cases h

end Sys2Proof
end

