-- ==== Sys2Proof/Laws/State.lean ====
section
/-! SUPPORT. What each named update of the block and of the machine does to each field. -/

namespace Sys2Proof.Machine

/-! ### The block -/


@[simp] theorem setErrFlag_S (k : ErrKind) (b : Block) :
    (setErrFlag k b).S = b.S := by cases k <;> rfl

@[simp] theorem setErrFlag_B (k : ErrKind) (b : Block) :
    (setErrFlag k b).B = b.B := by cases k <;> rfl

@[simp] theorem setErrFlag_n (k : ErrKind) (b : Block) :
    (setErrFlag k b).n = b.n := by cases k <;> rfl

@[simp] theorem setErrFlag_V (k : ErrKind) (b : Block) :
    (setErrFlag k b).V = b.V := by cases k <;> rfl

@[simp] theorem setErrFlag_P (k : ErrKind) (b : Block) :
    (setErrFlag k b).P = b.P := by cases k <;> rfl

@[simp] theorem setErrFlag_inited (k : ErrKind) (b : Block) :
    (setErrFlag k b).inited = b.inited := by cases k <;> rfl

@[simp] theorem setErrFlag_DG (k : ErrKind) (b : Block) :
    (setErrFlag k b).DG = b.DG := by cases k <;> rfl

@[simp] theorem setErrFlag_DV (k : ErrKind) (b : Block) :
    (setErrFlag k b).DV = b.DV := by cases k <;> rfl

@[simp] theorem setErrFlag_dataIn (k : ErrKind) (b : Block) :
    (setErrFlag k b).dataIn = b.dataIn := by cases k <;> rfl

@[simp] theorem setErrFlag_irqEn (k : ErrKind) (b : Block) :
    (setErrFlag k b).irqEn = b.irqEn := by cases k <;> rfl

@[simp] theorem setErrFlag_done (k : ErrKind) (b : Block) :
    (setErrFlag k b).done = b.done := by cases k <;> rfl

@[simp] theorem setErrFlag_errAddr (k : ErrKind) (b : Block) :
    (setErrFlag k b).errAddr = b.errAddr := by cases k <;> rfl

@[simp] theorem setErrFlag_errData (k : ErrKind) (b : Block) :
    (setErrFlag k b).errData = b.errData := by cases k <;> rfl

@[simp] theorem setErrFlag_busy (k : ErrKind) (b : Block) :
    (setErrFlag k b).busy = b.busy := by cases k <;> rfl

@[simp] theorem setErrFlag_pend (k : ErrKind) (b : Block) :
    (setErrFlag k b).pend = b.pend := by cases k <;> rfl

@[simp] theorem setErrFlag_W (k : ErrKind) (b : Block) :
    (setErrFlag k b).W = b.W := by cases k <;> rfl

@[simp] theorem setErrFlag_rcIdx (k : ErrKind) (b : Block) :
    (setErrFlag k b).rcIdx = b.rcIdx := by cases k <;> rfl

@[simp] theorem setErrFlag_errBusy (k : ErrKind) (b : Block) :
    (setErrFlag k b).errBusy = (b.errBusy || decide (k = .busy)) := by cases k <;> simp [setErrFlag]

@[simp] theorem setErrFlag_errCmd (k : ErrKind) (b : Block) :
    (setErrFlag k b).errCmd = (b.errCmd || decide (k = .cmd)) := by cases k <;> simp [setErrFlag]

@[simp] theorem setErrFlag_errSeq (k : ErrKind) (b : Block) :
    (setErrFlag k b).errSeq = (b.errSeq || decide (k = .seq)) := by cases k <;> simp [setErrFlag]

@[simp] theorem setErrFlag_errCount (k : ErrKind) (b : Block) :
    (setErrFlag k b).errCount = (b.errCount || decide (k = .count)) := by cases k <;> simp [setErrFlag]

@[simp] theorem raiseErr_S (k : ErrKind) (off : Offset) (d : Word) (b : Block) :
    (raiseErr k off d b).S = b.S := by unfold raiseErr; split <;> simp

@[simp] theorem raiseErr_B (k : ErrKind) (off : Offset) (d : Word) (b : Block) :
    (raiseErr k off d b).B = b.B := by unfold raiseErr; split <;> simp

@[simp] theorem raiseErr_n (k : ErrKind) (off : Offset) (d : Word) (b : Block) :
    (raiseErr k off d b).n = b.n := by unfold raiseErr; split <;> simp

@[simp] theorem raiseErr_V (k : ErrKind) (off : Offset) (d : Word) (b : Block) :
    (raiseErr k off d b).V = b.V := by unfold raiseErr; split <;> simp

@[simp] theorem raiseErr_P (k : ErrKind) (off : Offset) (d : Word) (b : Block) :
    (raiseErr k off d b).P = b.P := by unfold raiseErr; split <;> simp

@[simp] theorem raiseErr_inited (k : ErrKind) (off : Offset) (d : Word) (b : Block) :
    (raiseErr k off d b).inited = b.inited := by unfold raiseErr; split <;> simp

@[simp] theorem raiseErr_DG (k : ErrKind) (off : Offset) (d : Word) (b : Block) :
    (raiseErr k off d b).DG = b.DG := by unfold raiseErr; split <;> simp

@[simp] theorem raiseErr_DV (k : ErrKind) (off : Offset) (d : Word) (b : Block) :
    (raiseErr k off d b).DV = b.DV := by unfold raiseErr; split <;> simp

@[simp] theorem raiseErr_dataIn (k : ErrKind) (off : Offset) (d : Word) (b : Block) :
    (raiseErr k off d b).dataIn = b.dataIn := by unfold raiseErr; split <;> simp

@[simp] theorem raiseErr_irqEn (k : ErrKind) (off : Offset) (d : Word) (b : Block) :
    (raiseErr k off d b).irqEn = b.irqEn := by unfold raiseErr; split <;> simp

@[simp] theorem raiseErr_done (k : ErrKind) (off : Offset) (d : Word) (b : Block) :
    (raiseErr k off d b).done = b.done := by unfold raiseErr; split <;> simp

@[simp] theorem raiseErr_busy (k : ErrKind) (off : Offset) (d : Word) (b : Block) :
    (raiseErr k off d b).busy = b.busy := by unfold raiseErr; split <;> simp

@[simp] theorem raiseErr_pend (k : ErrKind) (off : Offset) (d : Word) (b : Block) :
    (raiseErr k off d b).pend = b.pend := by unfold raiseErr; split <;> simp

@[simp] theorem raiseErr_W (k : ErrKind) (off : Offset) (d : Word) (b : Block) :
    (raiseErr k off d b).W = b.W := by unfold raiseErr; split <;> simp

@[simp] theorem raiseErr_rcIdx (k : ErrKind) (off : Offset) (d : Word) (b : Block) :
    (raiseErr k off d b).rcIdx = b.rcIdx := by unfold raiseErr; split <;> simp

@[simp] theorem raiseErr_errBusy (k : ErrKind) (off : Offset) (d : Word) (b : Block) :
    (raiseErr k off d b).errBusy = (b.errBusy || decide (k = .busy)) := by unfold raiseErr; split <;> simp

@[simp] theorem raiseErr_errCmd (k : ErrKind) (off : Offset) (d : Word) (b : Block) :
    (raiseErr k off d b).errCmd = (b.errCmd || decide (k = .cmd)) := by unfold raiseErr; split <;> simp

@[simp] theorem raiseErr_errSeq (k : ErrKind) (off : Offset) (d : Word) (b : Block) :
    (raiseErr k off d b).errSeq = (b.errSeq || decide (k = .seq)) := by unfold raiseErr; split <;> simp

@[simp] theorem raiseErr_errCount (k : ErrKind) (off : Offset) (d : Word) (b : Block) :
    (raiseErr k off d b).errCount = (b.errCount || decide (k = .count)) := by unfold raiseErr; split <;> simp

@[simp] theorem raiseErr_errAddr (k : ErrKind) (off : Offset) (d : Word) (b : Block) :
    (raiseErr k off d b).errAddr = if anyErr b then b.errAddr else off := by unfold raiseErr; split <;> simp

@[simp] theorem raiseErr_errData (k : ErrKind) (off : Offset) (d : Word) (b : Block) :
    (raiseErr k off d b).errData = if anyErr b then b.errData else d := by unfold raiseErr; split <;> simp

@[simp] theorem clearFlags_S (d : Word) (b : Block) :
    (clearFlags d b).S = b.S := rfl

@[simp] theorem clearFlags_B (d : Word) (b : Block) :
    (clearFlags d b).B = b.B := rfl

@[simp] theorem clearFlags_n (d : Word) (b : Block) :
    (clearFlags d b).n = b.n := rfl

@[simp] theorem clearFlags_V (d : Word) (b : Block) :
    (clearFlags d b).V = b.V := rfl

@[simp] theorem clearFlags_P (d : Word) (b : Block) :
    (clearFlags d b).P = b.P := rfl

@[simp] theorem clearFlags_inited (d : Word) (b : Block) :
    (clearFlags d b).inited = b.inited := rfl

@[simp] theorem clearFlags_DG (d : Word) (b : Block) :
    (clearFlags d b).DG = b.DG := rfl

@[simp] theorem clearFlags_DV (d : Word) (b : Block) :
    (clearFlags d b).DV = b.DV := rfl

@[simp] theorem clearFlags_dataIn (d : Word) (b : Block) :
    (clearFlags d b).dataIn = b.dataIn := rfl

@[simp] theorem clearFlags_irqEn (d : Word) (b : Block) :
    (clearFlags d b).irqEn = b.irqEn := rfl

@[simp] theorem clearFlags_errAddr (d : Word) (b : Block) :
    (clearFlags d b).errAddr = b.errAddr := rfl

@[simp] theorem clearFlags_errData (d : Word) (b : Block) :
    (clearFlags d b).errData = b.errData := rfl

@[simp] theorem clearFlags_busy (d : Word) (b : Block) :
    (clearFlags d b).busy = b.busy := rfl

@[simp] theorem clearFlags_pend (d : Word) (b : Block) :
    (clearFlags d b).pend = b.pend := rfl

@[simp] theorem clearFlags_W (d : Word) (b : Block) :
    (clearFlags d b).W = b.W := rfl

@[simp] theorem clearFlags_rcIdx (d : Word) (b : Block) :
    (clearFlags d b).rcIdx = b.rcIdx := rfl

@[simp] theorem clearFlags_done (d : Word) (b : Block) :
    (clearFlags d b).done = (b.done && !d.getLsbD 3) := rfl

@[simp] theorem clearFlags_errBusy (d : Word) (b : Block) :
    (clearFlags d b).errBusy = (b.errBusy && !d.getLsbD 8) := rfl

@[simp] theorem clearFlags_errCmd (d : Word) (b : Block) :
    (clearFlags d b).errCmd = (b.errCmd && !d.getLsbD 9) := rfl

@[simp] theorem clearFlags_errSeq (d : Word) (b : Block) :
    (clearFlags d b).errSeq = (b.errSeq && !d.getLsbD 10) := rfl

@[simp] theorem clearFlags_errCount (d : Word) (b : Block) :
    (clearFlags d b).errCount = (b.errCount && !d.getLsbD 11) := rfl

@[simp] theorem finishCmd_S (b : Block) :
    (finishCmd b).S = b.S := rfl

@[simp] theorem finishCmd_B (b : Block) :
    (finishCmd b).B = b.B := rfl

@[simp] theorem finishCmd_n (b : Block) :
    (finishCmd b).n = b.n := rfl

@[simp] theorem finishCmd_V (b : Block) :
    (finishCmd b).V = b.V := rfl

@[simp] theorem finishCmd_P (b : Block) :
    (finishCmd b).P = b.P := rfl

@[simp] theorem finishCmd_inited (b : Block) :
    (finishCmd b).inited = b.inited := rfl

@[simp] theorem finishCmd_DG (b : Block) :
    (finishCmd b).DG = b.DG := rfl

@[simp] theorem finishCmd_DV (b : Block) :
    (finishCmd b).DV = b.DV := rfl

@[simp] theorem finishCmd_dataIn (b : Block) :
    (finishCmd b).dataIn = b.dataIn := rfl

@[simp] theorem finishCmd_irqEn (b : Block) :
    (finishCmd b).irqEn = b.irqEn := rfl

@[simp] theorem finishCmd_errBusy (b : Block) :
    (finishCmd b).errBusy = b.errBusy := rfl

@[simp] theorem finishCmd_errCmd (b : Block) :
    (finishCmd b).errCmd = b.errCmd := rfl

@[simp] theorem finishCmd_errSeq (b : Block) :
    (finishCmd b).errSeq = b.errSeq := rfl

@[simp] theorem finishCmd_errCount (b : Block) :
    (finishCmd b).errCount = b.errCount := rfl

@[simp] theorem finishCmd_errAddr (b : Block) :
    (finishCmd b).errAddr = b.errAddr := rfl

@[simp] theorem finishCmd_errData (b : Block) :
    (finishCmd b).errData = b.errData := rfl

@[simp] theorem finishCmd_W (b : Block) :
    (finishCmd b).W = b.W := rfl

@[simp] theorem finishCmd_rcIdx (b : Block) :
    (finishCmd b).rcIdx = b.rcIdx := rfl

@[simp] theorem finishCmd_busy (b : Block) :
    (finishCmd b).busy = false := rfl

@[simp] theorem finishCmd_done (b : Block) :
    (finishCmd b).done = true := rfl

@[simp] theorem finishCmd_pend (b : Block) :
    (finishCmd b).pend = none := rfl

@[simp] theorem acceptCmd_S (i : Instr) (b : Block) :
    (acceptCmd i b).S = b.S := rfl

@[simp] theorem acceptCmd_B (i : Instr) (b : Block) :
    (acceptCmd i b).B = b.B := rfl

@[simp] theorem acceptCmd_n (i : Instr) (b : Block) :
    (acceptCmd i b).n = b.n := rfl

@[simp] theorem acceptCmd_V (i : Instr) (b : Block) :
    (acceptCmd i b).V = b.V := rfl

@[simp] theorem acceptCmd_P (i : Instr) (b : Block) :
    (acceptCmd i b).P = b.P := rfl

@[simp] theorem acceptCmd_inited (i : Instr) (b : Block) :
    (acceptCmd i b).inited = b.inited := rfl

@[simp] theorem acceptCmd_DG (i : Instr) (b : Block) :
    (acceptCmd i b).DG = b.DG := rfl

@[simp] theorem acceptCmd_DV (i : Instr) (b : Block) :
    (acceptCmd i b).DV = b.DV := rfl

@[simp] theorem acceptCmd_dataIn (i : Instr) (b : Block) :
    (acceptCmd i b).dataIn = b.dataIn := rfl

@[simp] theorem acceptCmd_irqEn (i : Instr) (b : Block) :
    (acceptCmd i b).irqEn = b.irqEn := rfl

@[simp] theorem acceptCmd_done (i : Instr) (b : Block) :
    (acceptCmd i b).done = b.done := rfl

@[simp] theorem acceptCmd_errBusy (i : Instr) (b : Block) :
    (acceptCmd i b).errBusy = b.errBusy := rfl

@[simp] theorem acceptCmd_errCmd (i : Instr) (b : Block) :
    (acceptCmd i b).errCmd = b.errCmd := rfl

@[simp] theorem acceptCmd_errSeq (i : Instr) (b : Block) :
    (acceptCmd i b).errSeq = b.errSeq := rfl

@[simp] theorem acceptCmd_errCount (i : Instr) (b : Block) :
    (acceptCmd i b).errCount = b.errCount := rfl

@[simp] theorem acceptCmd_errAddr (i : Instr) (b : Block) :
    (acceptCmd i b).errAddr = b.errAddr := rfl

@[simp] theorem acceptCmd_errData (i : Instr) (b : Block) :
    (acceptCmd i b).errData = b.errData := rfl

@[simp] theorem acceptCmd_W (i : Instr) (b : Block) :
    (acceptCmd i b).W = b.W := rfl

@[simp] theorem acceptCmd_rcIdx (i : Instr) (b : Block) :
    (acceptCmd i b).rcIdx = b.rcIdx := rfl

@[simp] theorem acceptCmd_busy (i : Instr) (b : Block) :
    (acceptCmd i b).busy = true := rfl

@[simp] theorem acceptCmd_pend (i : Instr) (b : Block) :
    (acceptCmd i b).pend = some ⟨i.op, i.arg, b.dataIn⟩ := rfl

@[simp] theorem resetBlock_S (k : Nat) :
    (resetBlock k).S = Block.reset.S := rfl

@[simp] theorem resetBlock_B (k : Nat) :
    (resetBlock k).B = Block.reset.B := rfl

@[simp] theorem resetBlock_n (k : Nat) :
    (resetBlock k).n = Block.reset.n := rfl

@[simp] theorem resetBlock_V (k : Nat) :
    (resetBlock k).V = Block.reset.V := rfl

@[simp] theorem resetBlock_P (k : Nat) :
    (resetBlock k).P = Block.reset.P := rfl

@[simp] theorem resetBlock_inited (k : Nat) :
    (resetBlock k).inited = Block.reset.inited := rfl

@[simp] theorem resetBlock_DG (k : Nat) :
    (resetBlock k).DG = Block.reset.DG := rfl

@[simp] theorem resetBlock_DV (k : Nat) :
    (resetBlock k).DV = Block.reset.DV := rfl

@[simp] theorem resetBlock_dataIn (k : Nat) :
    (resetBlock k).dataIn = Block.reset.dataIn := rfl

@[simp] theorem resetBlock_irqEn (k : Nat) :
    (resetBlock k).irqEn = Block.reset.irqEn := rfl

@[simp] theorem resetBlock_done (k : Nat) :
    (resetBlock k).done = Block.reset.done := rfl

@[simp] theorem resetBlock_errBusy (k : Nat) :
    (resetBlock k).errBusy = Block.reset.errBusy := rfl

@[simp] theorem resetBlock_errCmd (k : Nat) :
    (resetBlock k).errCmd = Block.reset.errCmd := rfl

@[simp] theorem resetBlock_errSeq (k : Nat) :
    (resetBlock k).errSeq = Block.reset.errSeq := rfl

@[simp] theorem resetBlock_errCount (k : Nat) :
    (resetBlock k).errCount = Block.reset.errCount := rfl

@[simp] theorem resetBlock_errAddr (k : Nat) :
    (resetBlock k).errAddr = Block.reset.errAddr := rfl

@[simp] theorem resetBlock_errData (k : Nat) :
    (resetBlock k).errData = Block.reset.errData := rfl

@[simp] theorem resetBlock_busy (k : Nat) :
    (resetBlock k).busy = Block.reset.busy := rfl

@[simp] theorem resetBlock_pend (k : Nat) :
    (resetBlock k).pend = Block.reset.pend := rfl

@[simp] theorem finalBlock_S (b : Block) :
    (finalBlock b).S = b.S := by simp [finalBlock]

@[simp] theorem finalBlock_B (b : Block) :
    (finalBlock b).B = b.B := by simp [finalBlock]

@[simp] theorem finalBlock_n (b : Block) :
    (finalBlock b).n = b.n := by simp [finalBlock]

@[simp] theorem finalBlock_V (b : Block) :
    (finalBlock b).V = b.V := by simp [finalBlock]

@[simp] theorem finalBlock_P (b : Block) :
    (finalBlock b).P = b.P := by simp [finalBlock]

@[simp] theorem finalBlock_inited (b : Block) :
    (finalBlock b).inited = b.inited := by simp [finalBlock]

@[simp] theorem finalBlock_dataIn (b : Block) :
    (finalBlock b).dataIn = b.dataIn := by simp [finalBlock]

@[simp] theorem finalBlock_irqEn (b : Block) :
    (finalBlock b).irqEn = b.irqEn := by simp [finalBlock]

@[simp] theorem finalBlock_done (b : Block) :
    (finalBlock b).done = b.done := by simp [finalBlock]

@[simp] theorem finalBlock_errBusy (b : Block) :
    (finalBlock b).errBusy = b.errBusy := by simp [finalBlock]

@[simp] theorem finalBlock_errCmd (b : Block) :
    (finalBlock b).errCmd = b.errCmd := by simp [finalBlock]

@[simp] theorem finalBlock_errSeq (b : Block) :
    (finalBlock b).errSeq = b.errSeq := by simp [finalBlock]

@[simp] theorem finalBlock_errCount (b : Block) :
    (finalBlock b).errCount = b.errCount := by simp [finalBlock]

@[simp] theorem finalBlock_errAddr (b : Block) :
    (finalBlock b).errAddr = b.errAddr := by simp [finalBlock]

@[simp] theorem finalBlock_errData (b : Block) :
    (finalBlock b).errData = b.errData := by simp [finalBlock]

@[simp] theorem finalBlock_busy (b : Block) :
    (finalBlock b).busy = b.busy := by simp [finalBlock]

@[simp] theorem finalBlock_pend (b : Block) :
    (finalBlock b).pend = b.pend := by simp [finalBlock]

@[simp] theorem finalBlock_rcIdx (b : Block) :
    (finalBlock b).rcIdx = b.rcIdx := by simp [finalBlock]

@[simp] theorem finalBlock_DV (b : Block) :
    (finalBlock b).DV = true := by simp [finalBlock]

@[simp] theorem finalBlock_DG (b : Block) :
    (finalBlock b).DG = digestReg (finalize b.S b.B b.n.toNat b.V b.P) := by simp [finalBlock, finalize]

@[simp] theorem finalBlock_W (b : Block) :
    (finalBlock b).W = absorbBlock b.S (padBlock b.B b.n.toNat b.P (rb b.V)) := by simp [finalBlock]

@[simp] theorem absorbByte_V (b : Block) (x : Byte) :
    (absorbByte b x).V = b.V := by unfold absorbByte; dsimp only; split <;> rfl

@[simp] theorem absorbByte_P (b : Block) (x : Byte) :
    (absorbByte b x).P = b.P := by unfold absorbByte; dsimp only; split <;> rfl

@[simp] theorem absorbByte_inited (b : Block) (x : Byte) :
    (absorbByte b x).inited = b.inited := by unfold absorbByte; dsimp only; split <;> rfl

@[simp] theorem absorbByte_DG (b : Block) (x : Byte) :
    (absorbByte b x).DG = b.DG := by unfold absorbByte; dsimp only; split <;> rfl

@[simp] theorem absorbByte_DV (b : Block) (x : Byte) :
    (absorbByte b x).DV = b.DV := by unfold absorbByte; dsimp only; split <;> rfl

@[simp] theorem absorbByte_dataIn (b : Block) (x : Byte) :
    (absorbByte b x).dataIn = b.dataIn := by unfold absorbByte; dsimp only; split <;> rfl

@[simp] theorem absorbByte_irqEn (b : Block) (x : Byte) :
    (absorbByte b x).irqEn = b.irqEn := by unfold absorbByte; dsimp only; split <;> rfl

@[simp] theorem absorbByte_done (b : Block) (x : Byte) :
    (absorbByte b x).done = b.done := by unfold absorbByte; dsimp only; split <;> rfl

@[simp] theorem absorbByte_errBusy (b : Block) (x : Byte) :
    (absorbByte b x).errBusy = b.errBusy := by unfold absorbByte; dsimp only; split <;> rfl

@[simp] theorem absorbByte_errCmd (b : Block) (x : Byte) :
    (absorbByte b x).errCmd = b.errCmd := by unfold absorbByte; dsimp only; split <;> rfl

@[simp] theorem absorbByte_errSeq (b : Block) (x : Byte) :
    (absorbByte b x).errSeq = b.errSeq := by unfold absorbByte; dsimp only; split <;> rfl

@[simp] theorem absorbByte_errCount (b : Block) (x : Byte) :
    (absorbByte b x).errCount = b.errCount := by unfold absorbByte; dsimp only; split <;> rfl

@[simp] theorem absorbByte_errAddr (b : Block) (x : Byte) :
    (absorbByte b x).errAddr = b.errAddr := by unfold absorbByte; dsimp only; split <;> rfl

@[simp] theorem absorbByte_errData (b : Block) (x : Byte) :
    (absorbByte b x).errData = b.errData := by unfold absorbByte; dsimp only; split <;> rfl

@[simp] theorem absorbByte_busy (b : Block) (x : Byte) :
    (absorbByte b x).busy = b.busy := by unfold absorbByte; dsimp only; split <;> rfl

@[simp] theorem absorbByte_pend (b : Block) (x : Byte) :
    (absorbByte b x).pend = b.pend := by unfold absorbByte; dsimp only; split <;> rfl

@[simp] theorem absorbByte_W (b : Block) (x : Byte) :
    (absorbByte b x).W = b.W := by unfold absorbByte; dsimp only; split <;> rfl

@[simp] theorem absorbByte_rcIdx (b : Block) (x : Byte) :
    (absorbByte b x).rcIdx = b.rcIdx := by unfold absorbByte; dsimp only; split <;> rfl

@[simp] theorem absorbBytes_V (b : Block) (m : List Byte) :
    (absorbBytes b m).V = b.V := by
  induction m generalizing b with
  | nil => rfl
  | cons x m ih => exact (ih (absorbByte b x)).trans (absorbByte_V b x)

@[simp] theorem absorbBytes_P (b : Block) (m : List Byte) :
    (absorbBytes b m).P = b.P := by
  induction m generalizing b with
  | nil => rfl
  | cons x m ih => exact (ih (absorbByte b x)).trans (absorbByte_P b x)

@[simp] theorem absorbBytes_inited (b : Block) (m : List Byte) :
    (absorbBytes b m).inited = b.inited := by
  induction m generalizing b with
  | nil => rfl
  | cons x m ih => exact (ih (absorbByte b x)).trans (absorbByte_inited b x)

@[simp] theorem absorbBytes_DG (b : Block) (m : List Byte) :
    (absorbBytes b m).DG = b.DG := by
  induction m generalizing b with
  | nil => rfl
  | cons x m ih => exact (ih (absorbByte b x)).trans (absorbByte_DG b x)

@[simp] theorem absorbBytes_DV (b : Block) (m : List Byte) :
    (absorbBytes b m).DV = b.DV := by
  induction m generalizing b with
  | nil => rfl
  | cons x m ih => exact (ih (absorbByte b x)).trans (absorbByte_DV b x)

@[simp] theorem absorbBytes_dataIn (b : Block) (m : List Byte) :
    (absorbBytes b m).dataIn = b.dataIn := by
  induction m generalizing b with
  | nil => rfl
  | cons x m ih => exact (ih (absorbByte b x)).trans (absorbByte_dataIn b x)

@[simp] theorem absorbBytes_irqEn (b : Block) (m : List Byte) :
    (absorbBytes b m).irqEn = b.irqEn := by
  induction m generalizing b with
  | nil => rfl
  | cons x m ih => exact (ih (absorbByte b x)).trans (absorbByte_irqEn b x)

@[simp] theorem absorbBytes_done (b : Block) (m : List Byte) :
    (absorbBytes b m).done = b.done := by
  induction m generalizing b with
  | nil => rfl
  | cons x m ih => exact (ih (absorbByte b x)).trans (absorbByte_done b x)

@[simp] theorem absorbBytes_errBusy (b : Block) (m : List Byte) :
    (absorbBytes b m).errBusy = b.errBusy := by
  induction m generalizing b with
  | nil => rfl
  | cons x m ih => exact (ih (absorbByte b x)).trans (absorbByte_errBusy b x)

@[simp] theorem absorbBytes_errCmd (b : Block) (m : List Byte) :
    (absorbBytes b m).errCmd = b.errCmd := by
  induction m generalizing b with
  | nil => rfl
  | cons x m ih => exact (ih (absorbByte b x)).trans (absorbByte_errCmd b x)

@[simp] theorem absorbBytes_errSeq (b : Block) (m : List Byte) :
    (absorbBytes b m).errSeq = b.errSeq := by
  induction m generalizing b with
  | nil => rfl
  | cons x m ih => exact (ih (absorbByte b x)).trans (absorbByte_errSeq b x)

@[simp] theorem absorbBytes_errCount (b : Block) (m : List Byte) :
    (absorbBytes b m).errCount = b.errCount := by
  induction m generalizing b with
  | nil => rfl
  | cons x m ih => exact (ih (absorbByte b x)).trans (absorbByte_errCount b x)

@[simp] theorem absorbBytes_errAddr (b : Block) (m : List Byte) :
    (absorbBytes b m).errAddr = b.errAddr := by
  induction m generalizing b with
  | nil => rfl
  | cons x m ih => exact (ih (absorbByte b x)).trans (absorbByte_errAddr b x)

@[simp] theorem absorbBytes_errData (b : Block) (m : List Byte) :
    (absorbBytes b m).errData = b.errData := by
  induction m generalizing b with
  | nil => rfl
  | cons x m ih => exact (ih (absorbByte b x)).trans (absorbByte_errData b x)

@[simp] theorem absorbBytes_busy (b : Block) (m : List Byte) :
    (absorbBytes b m).busy = b.busy := by
  induction m generalizing b with
  | nil => rfl
  | cons x m ih => exact (ih (absorbByte b x)).trans (absorbByte_busy b x)

@[simp] theorem absorbBytes_pend (b : Block) (m : List Byte) :
    (absorbBytes b m).pend = b.pend := by
  induction m generalizing b with
  | nil => rfl
  | cons x m ih => exact (ih (absorbByte b x)).trans (absorbByte_pend b x)

@[simp] theorem absorbBytes_W (b : Block) (m : List Byte) :
    (absorbBytes b m).W = b.W := by
  induction m generalizing b with
  | nil => rfl
  | cons x m ih => exact (ih (absorbByte b x)).trans (absorbByte_W b x)

@[simp] theorem absorbBytes_rcIdx (b : Block) (m : List Byte) :
    (absorbBytes b m).rcIdx = b.rcIdx := by
  induction m generalizing b with
  | nil => rfl
  | cons x m ih => exact (ih (absorbByte b x)).trans (absorbByte_rcIdx b x)

/-! ### The machine -/


@[simp] theorem softReset_actor (s : State) :
    (softReset s).actor = s.actor := rfl

@[simp] theorem softReset_wasReset (s : State) :
    (softReset s).wasReset = s.wasReset := rfl

@[simp] theorem softReset_host (s : State) :
    (softReset s).host = s.host := rfl

@[simp] theorem softReset_sched (s : State) :
    (softReset s).sched = s.sched := rfl

@[simp] theorem softReset_received (s : State) :
    (softReset s).received = s.received := rfl

@[simp] theorem softReset_blk (s : State) :
    (softReset s).blk = resetBlock s.draws := rfl

@[simp] theorem softReset_draws (s : State) :
    (softReset s).draws = s.draws + 1 := rfl

@[simp] theorem hardReset_actor (s : State) :
    (hardReset s).actor = s.actor := rfl

@[simp] theorem hardReset_host (s : State) :
    (hardReset s).host = s.host := rfl

@[simp] theorem hardReset_sched (s : State) :
    (hardReset s).sched = s.sched := rfl

@[simp] theorem hardReset_received (s : State) :
    (hardReset s).received = s.received := rfl

@[simp] theorem hardReset_blk (s : State) :
    (hardReset s).blk = resetBlock s.draws := rfl

@[simp] theorem hardReset_draws (s : State) :
    (hardReset s).draws = s.draws + 1 := rfl

@[simp] theorem hardReset_wasReset (s : State) :
    (hardReset s).wasReset = true := rfl

@[simp] theorem powerUp_actor (s : State) :
    (powerUp s).actor = s.actor := by simp [powerUp]

@[simp] theorem powerUp_host (s : State) :
    (powerUp s).host = s.host := by simp [powerUp]

@[simp] theorem powerUp_sched (s : State) :
    (powerUp s).sched = s.sched := by simp [powerUp]

@[simp] theorem powerUp_received (s : State) :
    (powerUp s).received = s.received := by simp [powerUp]

@[simp] theorem powerUp_blk (s : State) :
    (powerUp s).blk = powerUpBlock s.draws := by simp [powerUp]

@[simp] theorem powerUp_draws (s : State) :
    (powerUp s).draws = s.draws + 24 := by simp [powerUp]

@[simp] theorem powerUp_wasReset (s : State) :
    (powerUp s).wasReset = false := by simp [powerUp]

@[simp] theorem reject_actor (k : ErrKind) (off : Offset) (d : Word) (s : State) :
    (reject k off d s).actor = s.actor := rfl

@[simp] theorem reject_wasReset (k : ErrKind) (off : Offset) (d : Word) (s : State) :
    (reject k off d s).wasReset = s.wasReset := rfl

@[simp] theorem reject_host (k : ErrKind) (off : Offset) (d : Word) (s : State) :
    (reject k off d s).host = s.host := rfl

@[simp] theorem reject_sched (k : ErrKind) (off : Offset) (d : Word) (s : State) :
    (reject k off d s).sched = s.sched := rfl

@[simp] theorem reject_received (k : ErrKind) (off : Offset) (d : Word) (s : State) :
    (reject k off d s).received = s.received := rfl

@[simp] theorem reject_draws (k : ErrKind) (off : Offset) (d : Word) (s : State) :
    (reject k off d s).draws = s.draws := rfl

@[simp] theorem reject_blk (k : ErrKind) (off : Offset) (d : Word) (s : State) :
    (reject k off d s).blk = raiseErr k off d s.blk := rfl

@[simp] theorem countDraw_blk (x : Bool) (s : State) :
    (countDraw x s).blk = s.blk := rfl

@[simp] theorem countDraw_actor (x : Bool) (s : State) :
    (countDraw x s).actor = s.actor := rfl

@[simp] theorem countDraw_wasReset (x : Bool) (s : State) :
    (countDraw x s).wasReset = s.wasReset := rfl

@[simp] theorem countDraw_host (x : Bool) (s : State) :
    (countDraw x s).host = s.host := rfl

@[simp] theorem countDraw_sched (x : Bool) (s : State) :
    (countDraw x s).sched = s.sched := rfl

@[simp] theorem countDraw_received (x : Bool) (s : State) :
    (countDraw x s).received = s.received := rfl

@[simp] theorem countDraw_draws (x : Bool) (s : State) :
    (countDraw x s).draws = if x then s.draws + 1 else s.draws := rfl

@[simp] theorem hostRead_blk (a : Offset) (s : State) :
    (hostRead a s).blk = s.blk := rfl

@[simp] theorem hostRead_actor (a : Offset) (s : State) :
    (hostRead a s).actor = s.actor := rfl

@[simp] theorem hostRead_wasReset (a : Offset) (s : State) :
    (hostRead a s).wasReset = s.wasReset := rfl

@[simp] theorem hostRead_host (a : Offset) (s : State) :
    (hostRead a s).host = s.host := rfl

@[simp] theorem hostRead_sched (a : Offset) (s : State) :
    (hostRead a s).sched = s.sched := rfl

@[simp] theorem hostRead_received (a : Offset) (s : State) :
    (hostRead a s).received = readValue s a :: s.received := rfl

@[simp] theorem hostRead_draws (a : Offset) (s : State) :
    (hostRead a s).draws = if readIsFree s.blk a then s.draws + 1 else s.draws := rfl

@[simp] theorem pollStatus_blk (w : Word) (s : State) :
    (pollStatus w s).blk = s.blk := by unfold pollStatus; split <;> rfl

@[simp] theorem pollStatus_actor (w : Word) (s : State) :
    (pollStatus w s).actor = s.actor := by unfold pollStatus; split <;> rfl

@[simp] theorem pollStatus_wasReset (w : Word) (s : State) :
    (pollStatus w s).wasReset = s.wasReset := by unfold pollStatus; split <;> rfl

@[simp] theorem pollStatus_sched (w : Word) (s : State) :
    (pollStatus w s).sched = s.sched := by unfold pollStatus; split <;> rfl

@[simp] theorem pollStatus_received (w : Word) (s : State) :
    (pollStatus w s).received = s.received := by unfold pollStatus; split <;> rfl

@[simp] theorem pollStatus_draws (w : Word) (s : State) :
    (pollStatus w s).draws = s.draws := by unfold pollStatus; split <;> rfl

@[simp] theorem pollStatus_host (w : Word) (s : State) :
    (pollStatus w s).host = if w.getLsbD 0 then s.host else s.host.tail := by unfold pollStatus; split <;> rfl

@[simp] theorem hiddenUsed_actor (s : State) :
    (hiddenUsed s).actor = s.actor := by simp [hiddenUsed]

@[simp] theorem hiddenUsed_wasReset (s : State) :
    (hiddenUsed s).wasReset = s.wasReset := by simp [hiddenUsed]

@[simp] theorem hiddenUsed_host (s : State) :
    (hiddenUsed s).host = s.host := by simp [hiddenUsed]

@[simp] theorem hiddenUsed_sched (s : State) :
    (hiddenUsed s).sched = s.sched := by simp [hiddenUsed]

@[simp] theorem hiddenUsed_received (s : State) :
    (hiddenUsed s).received = s.received := by simp [hiddenUsed]

@[simp] theorem hiddenUsed_blk (s : State) :
    (hiddenUsed s).blk = { s.blk with W := freeBytes 200 s.draws, rcIdx := Config.freeBits 5 s.draws } := by simp [hiddenUsed]

@[simp] theorem hiddenUsed_draws (s : State) :
    (hiddenUsed s).draws = s.draws + 1 := by simp [hiddenUsed]

@[simp] theorem beginStep_blk (a : Actor) (s : State) :
    (beginStep a s).blk = s.blk := rfl

@[simp] theorem beginStep_wasReset (a : Actor) (s : State) :
    (beginStep a s).wasReset = s.wasReset := rfl

@[simp] theorem beginStep_host (a : Actor) (s : State) :
    (beginStep a s).host = s.host := rfl

@[simp] theorem beginStep_received (a : Actor) (s : State) :
    (beginStep a s).received = s.received := rfl

@[simp] theorem beginStep_draws (a : Actor) (s : State) :
    (beginStep a s).draws = s.draws := rfl

@[simp] theorem beginStep_actor (a : Actor) (s : State) :
    (beginStep a s).actor = a := rfl

@[simp] theorem beginStep_sched (a : Actor) (s : State) :
    (beginStep a s).sched = s.sched.tail := rfl

@[simp] theorem issue_actor (n : Bool) (i : Instr) (s : State) :
    (issue n i s).actor = s.actor := rfl

@[simp] theorem issue_wasReset (n : Bool) (i : Instr) (s : State) :
    (issue n i s).wasReset = s.wasReset := rfl

@[simp] theorem issue_host (n : Bool) (i : Instr) (s : State) :
    (issue n i s).host = s.host := rfl

@[simp] theorem issue_sched (n : Bool) (i : Instr) (s : State) :
    (issue n i s).sched = s.sched := rfl

@[simp] theorem issue_received (n : Bool) (i : Instr) (s : State) :
    (issue n i s).received = s.received := rfl

@[simp] theorem issue_draws (n : Bool) (i : Instr) (s : State) :
    (issue n i s).draws = s.draws := rfl

@[simp] theorem placeCmdWrite_blk (c : Word) (s : State) :
    (placeCmdWrite c s).blk = s.blk := rfl

@[simp] theorem placeCmdWrite_actor (c : Word) (s : State) :
    (placeCmdWrite c s).actor = s.actor := rfl

@[simp] theorem placeCmdWrite_received (c : Word) (s : State) :
    (placeCmdWrite c s).received = s.received := rfl

@[simp] theorem placeCmdWrite_draws (c : Word) (s : State) :
    (placeCmdWrite c s).draws = s.draws := rfl

@[simp] theorem placeCmdWrite_host (c : Word) (s : State) :
    (placeCmdWrite c s).host = .wr Reg.cmd.offset c :: s.host := rfl

@[simp] theorem placeCmdWrite_sched (c : Word) (s : State) :
    (placeCmdWrite c s).sched = .host :: s.sched := rfl

@[simp] theorem placeCmdWrite_wasReset (c : Word) (s : State) :
    (placeCmdWrite c s).wasReset = true := rfl

@[simp] theorem hostTaken_blk (s : State) :
    (hostTaken s).blk = s.blk := rfl

@[simp] theorem hostTaken_wasReset (s : State) :
    (hostTaken s).wasReset = s.wasReset := rfl

@[simp] theorem hostTaken_received (s : State) :
    (hostTaken s).received = s.received := rfl

@[simp] theorem hostTaken_draws (s : State) :
    (hostTaken s).draws = s.draws := rfl

@[simp] theorem hostTaken_actor (s : State) :
    (hostTaken s).actor = .host := rfl

@[simp] theorem hostTaken_sched (s : State) :
    (hostTaken s).sched = s.sched.tail := rfl

@[simp] theorem hostTaken_host (s : State) :
    (hostTaken s).host = s.host.tail := rfl

@[simp] theorem engineTaken_blk (s : State) :
    (engineTaken s).blk = s.blk := rfl

@[simp] theorem engineTaken_wasReset (s : State) :
    (engineTaken s).wasReset = s.wasReset := rfl

@[simp] theorem engineTaken_host (s : State) :
    (engineTaken s).host = s.host := rfl

@[simp] theorem engineTaken_received (s : State) :
    (engineTaken s).received = s.received := rfl

@[simp] theorem engineTaken_draws (s : State) :
    (engineTaken s).draws = s.draws := rfl

@[simp] theorem engineTaken_actor (s : State) :
    (engineTaken s).actor = .engine := rfl

@[simp] theorem engineTaken_sched (s : State) :
    (engineTaken s).sched = s.sched.tail := rfl

end Sys2Proof.Machine
end

