-- ==== Sys2Proof/Laws/Ops.lean ====
section
/-! SUPPORT. What each shared operation does: one lemma each, for callers to cite. -/

namespace Sys2Proof.Machine

/-! ### The two halves of a command -/

/-- The block after an acceptance: rejected for one of three causes, or accepted. -/
theorem issue_blk_cases (q : Bool) (i : Instr) (s : State) :
    (s.blk.busy = true ∧ (issue q i s).blk = raiseErr .busy 0x008#12 (encode i) s.blk) ∨
    (s.blk.busy = false ∧ i.wf = false ∧
      (issue q i s).blk = raiseErr .cmd 0x008#12 (encode i) s.blk) ∨
    (s.blk.busy = false ∧ i.wf = true ∧ q = true ∧ s.blk.inited = false ∧
      (issue q i s).blk = raiseErr .seq 0x008#12 (encode i) s.blk) ∨
    (s.blk.busy = false ∧ i.wf = true ∧ (q = true → s.blk.inited = true) ∧
      (issue q i s).blk = acceptCmd i s.blk) := by
  unfold issue
  cases s.blk.busy <;> cases i.wf <;> cases q <;> cases s.blk.inited <;> simp [Reg.offset]

/-- An idle block accepts a legal command that may run. -/
theorem issue_accepts {q : Bool} {i : Instr} {s : State} (hb : s.blk.busy = false) (hw : i.wf = true)
    (hq : q = true → s.blk.inited = true) : issue q i s = { s with blk := acceptCmd i s.blk } := by
  cases q <;> simp_all [issue]

/-- A completion with a command pending: the effect, then BUSY falls and DONE rises. -/
theorem complete_of_pend {e : Word → State → State} {s : State} {p : Pend} (h : s.blk.pend = some p) :
    complete e s = { e p.data s with blk := finishCmd (e p.data s).blk } := by
  simp [complete, h]

/-- In the host's step, a command other than SRESET is its acceptance. -/
theorem exec_host {i : Instr} {s : State} (hi : i ≠ .sreset) (ha : s.actor = .host) :
    exec i s = .next (issue (needsInit i) i s) := by
  cases i <;> simp_all [exec, execNop, execInit, execAbsorb, execFinal, execPermute, command, needsInit]

/-- The effect of a command other than SRESET in the engine's step. -/
def effectOf (i : Instr) : Word → State → State :=
  match i with
  | .nop => nopEffect
  | .init v p => initEffect v p
  | .absorb k => absorbEffect k
  | .final => finalEffect
  | .permute => permuteEffect
  | .sreset => fun _ s => softReset s

/-- In the engine's step, a command other than SRESET is its completion. -/
theorem exec_engine {i : Instr} {s : State} (hi : i ≠ .sreset) (ha : s.actor = .engine) :
    exec i s = .next (complete (effectOf i) s) := by
  cases i <;> simp_all [exec, execNop, execInit, execAbsorb, execFinal, execPermute, command, effectOf]

/-- Every command answers a next state, in every state. -/
theorem exec_next (i : Instr) (s : State) : ∃ t, exec i s = .next t := by
  by_cases hi : i = .sreset
  · subst hi; exact ⟨_, rfl⟩
  · cases ha : s.actor
    · exact ⟨_, exec_host hi ha⟩
    · exact ⟨_, exec_engine hi ha⟩

/-! ### PEND -/

/-- SRESET is never what PEND holds. -/
theorem pend_instr_ne_sreset {p : Pend} {i : Instr} (h : p.instr = some i) : i ≠ .sreset := by
  unfold Pend.instr at h
  split at h
  · cases h
  · next j hj _ => cases h; rintro rfl; exact hj rfl
  · cases h

/-! ### Writing a register -/

/-- What a write to a register other than CMD does to a block. -/
theorem writeReg_cases (r : Reg) (d : Word) (b : Block) :
    writeReg r d b = b ∨
    (r = .status ∧ writeReg r d b = clearFlags d b) ∨
    (r = .irqEn ∧ writeReg r d b = { b with irqEn := d.extractLsb' 0 2 }) ∨
    (r = .dataIn ∧ writeReg r d b = { b with dataIn := d }) ∨
    (∃ k, writeReg r d b = raiseErr k r.offset d b) ∨
    (r = .count ∧ b.busy = false ∧ d.toNat < rb b.V ∧
      writeReg r d b = { b with n := d.setWidth 8, DV := false }) ∨
    (∃ j, r = .state j ∧ b.busy = false ∧
      writeReg r d b = { b with S := setLe32 b.S (4 * j.val) d, DV := false }) ∨
    (∃ j, r = .buf j ∧ b.busy = false ∧
      writeReg r d b = { b with B := setLe32 b.B (4 * j.val) d, DV := false }) := by
  cases r
  case count =>
    by_cases hb : b.busy = true
    · exact .inr (.inr (.inr (.inr (.inl ⟨.busy, by simp [writeReg, writeCount, hb]⟩))))
    · by_cases hr : rb b.V ≤ d.toNat
      · exact .inr (.inr (.inr (.inr (.inl ⟨.count, by simp [writeReg, writeCount, hb, hr]⟩))))
      · exact .inr (.inr (.inr (.inr (.inr (.inl
          ⟨rfl, by simpa using hb, Nat.lt_of_not_le hr, by simp [writeReg, writeCount, hb, hr]⟩)))))
  case state j =>
    by_cases hb : b.busy = true
    · exact .inr (.inr (.inr (.inr (.inl ⟨.busy, by simp [writeReg, writeState, hb]⟩))))
    · exact .inr (.inr (.inr (.inr (.inr (.inr (.inl
        ⟨j, rfl, by simpa using hb, by simp [writeReg, writeState, hb]⟩))))))
  case buf j =>
    by_cases hb : b.busy = true
    · exact .inr (.inr (.inr (.inr (.inl ⟨.busy, by simp [writeReg, writeBuf, hb]⟩))))
    · exact .inr (.inr (.inr (.inr (.inr (.inr (.inr
        ⟨j, rfl, by simpa using hb, by simp [writeReg, writeBuf, hb]⟩))))))
  all_goals simp [writeReg]

end Sys2Proof.Machine
end

