-- ==== Sys2Proof/Laws/PerInstr.lean ====
section
/-! SUPPORT. Statements made per instruction. Family `Encoding`: the word of an instruction, and its own
row of the opcode table (30_encoding.md R90, R92 to R98). -/

namespace Sys2Proof.Laws

/-- The fixed bits of an instruction's row: the mask and the match of spec/opcode_table.json. -/
def Encoding.row : Instr → Word × Word
  | .nop => (0xFFFFFFFF#32, 0x00000000#32)
  | .init _ _ => (0xFFFFECFF#32, 0x00000001#32)
  | .absorb _ => (0xFFFFF8FF#32, 0x00000002#32)
  | .final => (0xFFFFFFFF#32, 0x00000003#32)
  | .permute => (0xFFFFFFFF#32, 0x00000004#32)
  | .sreset => (0xFFFFFFFF#32, 0x0000000F#32)

/-- The word of an instruction has the fixed bits of its row, OP and ARG as the instruction's own, and RSV
zero. -/
def Encoding.Statement (i : Instr) : Prop :=
  encode i &&& (Encoding.row i).1 = (Encoding.row i).2 ∧
    opField (encode i) = i.op ∧ argField (encode i) = i.arg ∧ rsvField (encode i) = 0#16

theorem Encoding.nop : Encoding.Statement .nop := by
  unfold Encoding.Statement; decide

theorem Encoding.init (v : Variant) (p : PadMode) : Encoding.Statement (.init v p) := by
  unfold Encoding.Statement; cases v <;> cases p <;> decide

theorem Encoding.absorb (k : BitVec 3) : Encoding.Statement (.absorb k) := by
  unfold Encoding.Statement; revert k; decide

theorem Encoding.final : Encoding.Statement .final := by
  unfold Encoding.Statement; decide

theorem Encoding.permute : Encoding.Statement .permute := by
  unfold Encoding.Statement; decide

theorem Encoding.sreset : Encoding.Statement .sreset := by
  unfold Encoding.Statement; decide

end Sys2Proof.Laws
end

