-- ==== Sys2Proof/Laws/Step.lean ====
section
/-! SUPPORT. What a step can do, said once: the step's value for each kind of turn, and the inversion of a
step that answers a next state. -/

namespace Sys2Proof.Machine

/-! ### The step's value, by turn -/

@[simp] theorem readValue_beginStep (a : Actor) (s : State) (x : Offset) :
    readValue (beginStep a s) x = readValue s x := rfl

@[simp] theorem readValue_hostTaken (s : State) (x : Offset) :
    readValue (hostTaken s) x = readValue s x := rfl

theorem step_hostTurn {s : State} (h : HostTurn s) : step s = hostStep (beginStep .host s) := by
  simp [step, takeTurn, h.1, h.2]

theorem step_engineTurn {s : State} (h : EngineTurn s) : step s = engineStep (beginStep .engine s) := by
  simp [step, takeTurn, h.1, h.2]

theorem step_reset {s : State} (h : nextTurn s = .reset) :
    step s = .next (hardReset (beginStep .host s)) := by
  simp [step, takeTurn, h]

theorem step_resetWithAccess {s : State} (h : nextTurn s = .resetWithAccess) :
    step s = accessUnderReset (beginStep .host s) := by
  simp [step, takeTurn, h]

theorem step_powerCycle {s : State} (h : nextTurn s = .powerCycle) :
    step s = .next (powerUp (beginStep .host s)) := by
  simp [step, takeTurn, h]

theorem step_hostWrites {s : State} {a : Offset} {d : Word} (h : HostWrites s a d) :
    step s = hostWrite a d (hostTaken s) := by
  obtain ⟨ht, hh⟩ := h
  rw [step_hostTurn ht]
  cases hl : s.host with
  | nil => simp [hl] at hh
  | cons o rest =>
    simp only [hl, List.head?_cons, Option.some.injEq] at hh
    subst hh
    simp [hostStep, hostTaken, beginStep, hl]

theorem step_hostReads {s : State} {a : Offset} (h : HostReads s a) :
    step s = .next (hostRead a (hostTaken s)) := by
  obtain ⟨ht, hh⟩ := h
  rw [step_hostTurn ht]
  cases hl : s.host with
  | nil => simp [hl] at hh
  | cons o rest =>
    simp only [hl, List.head?_cons, Option.some.injEq] at hh
    subst hh
    simp [hostStep, hostTaken, beginStep, hl]

theorem step_hostIdle {s : State} (h : HostTurn s) (hl : s.host = []) :
    step s = .next (beginStep .host s) := by
  rw [step_hostTurn h]
  simp [hostStep, hl]

theorem step_hostWaits {s : State} {rest : List HostOp} (h : HostTurn s) (hl : s.host = .wait :: rest) :
    step s = .next (pollStatus (readValue s Reg.status.offset) (beginStep .host s)) := by
  rw [step_hostTurn h]
  simp [hostStep, hl]

theorem step_completes {s : State} {i : Instr} (h : Completes s i) : step s = exec i (engineTaken s) := by
  obtain ⟨ht, hb, hp⟩ := h
  rw [step_engineTurn ht]
  simp [engineStep, hb, hp, engineTaken, beginStep]

theorem step_engineIdle {s : State} (h : EngineTurn s) (hb : s.blk.busy = false) :
    step s = .next (engineTaken s) := by
  rw [step_engineTurn h]
  simp [engineStep, hb, engineTaken, beginStep]

/-! ### Inversion -/

/-- A clock edge with rst_n = 0 and an access leaves a reset block. -/
theorem accessUnderReset_blk {s t : State} (h : accessUnderReset s = .next t) :
    (∃ k, t.blk = resetBlock k) ∧ t.wasReset = true := by
  unfold accessUnderReset at h
  split at h <;> cases h <;> exact ⟨⟨_, rfl⟩, rfl⟩

/-- Every step that answers a next state is one of these. -/
theorem step_cases {s t : State} (h : step s = .next t) :
    (HostTurn s ∧ s.host = [] ∧ t = beginStep .host s) ∨
    (∃ a, HostReads s a ∧ t = hostRead a (hostTaken s)) ∨
    (∃ a d, HostWrites s a d ∧ hostWrite a d (hostTaken s) = .next t) ∨
    (∃ rest, HostTurn s ∧ s.host = .wait :: rest ∧
      t = pollStatus (readValue s Reg.status.offset) (beginStep .host s)) ∨
    (∃ i, Completes s i ∧ exec i (engineTaken s) = .next t) ∨
    (EngineTurn s ∧ s.blk.busy = false ∧ t = engineTaken s) ∨
    (nextTurn s = .reset ∧ t = hardReset (beginStep .host s)) ∨
    (nextTurn s = .resetWithAccess ∧ (∃ k, t.blk = resetBlock k) ∧ t.wasReset = true) ∨
    (nextTurn s = .powerCycle ∧ t = powerUp (beginStep .host s)) := by
  cases hn : nextTurn s
  case host =>
    by_cases hw : s.wasReset = true
    · have ht : HostTurn s := ⟨hw, hn⟩
      rcases hl : s.host with _ | ⟨o, rest⟩
      · rw [step_hostIdle ht hl] at h; cases h; simp [ht]
      · cases o with
        | rd a =>
          have hr : HostReads s a := ⟨ht, by simp [hl]⟩
          rw [step_hostReads hr] at h; cases h
          exact .inr (.inl ⟨a, hr, rfl⟩)
        | wr a d =>
          have hr : HostWrites s a d := ⟨ht, by simp [hl]⟩
          rw [step_hostWrites hr] at h
          exact .inr (.inr (.inl ⟨a, d, hr, h⟩))
        | wrNarrow z a d => rw [step_hostTurn ht] at h; simp [hostStep, hl] at h
        | wait =>
          rw [step_hostWaits ht hl] at h; cases h
          exact .inr (.inr (.inr (.inl ⟨rest, ht, by simp, rfl⟩)))
    · simp [step, takeTurn, hn, hw] at h
  case engine =>
    by_cases hw : s.wasReset = true
    · have ht : EngineTurn s := ⟨hw, hn⟩
      by_cases hb : s.blk.busy = true
      · cases hp : s.blk.pend.bind Pend.instr with
        | none => rw [step_engineTurn ht] at h; simp [engineStep, hb, hp] at h
        | some i =>
          have hc : Completes s i := ⟨ht, hb, hp⟩
          rw [step_completes hc] at h
          exact .inr (.inr (.inr (.inr (.inl ⟨i, hc, h⟩))))
      · have hb' : s.blk.busy = false := by simpa using hb
        rw [step_engineIdle ht hb'] at h; cases h
        simp [ht, hb']
    · simp [step, takeTurn, hn, hw] at h
  case reset => rw [step_reset hn] at h; cases h; simp
  case resetWithAccess =>
    rw [step_resetWithAccess hn] at h
    simp [accessUnderReset_blk h]
  case powerCycle =>
    rw [step_powerCycle hn, Host.Outcome.next.injEq] at h
    simp [← h]

/-- What a completion leaves: the command's effect on what the engine finds, then BUSY falls. -/
theorem completes_next {s : State} {i : Instr} (h : Completes s i) :
    ∃ p, s.blk.pend = some p ∧ p.instr = some i ∧ i ≠ .sreset ∧
      step s = .next { effectOf i p.data (engineTaken s) with
        blk := finishCmd (effectOf i p.data (engineTaken s)).blk } := by
  obtain ⟨p, hp, hi⟩ := Option.bind_eq_some_iff.mp h.2.2
  have hs := pend_instr_ne_sreset hi
  refine ⟨p, hp, hi, hs, ?_⟩
  rw [step_completes h, exec_engine hs rfl, complete_of_pend (s := engineTaken s) (p := p) hp]

end Sys2Proof.Machine
end

