-- ==== Sys2Proof/Tests/Slice0.lean ====
section
/-! SUPPORT. The model's own tests, each with its source in the spec, and the witnesses: for every statement
with hypotheses, a concrete state and operands that meet them together. -/

namespace Sys2Proof.Tests

open Sys2Proof Sys2Proof.Machine

/-! ### Small states -/

/-- A block after an INIT of a variant. -/
def initBlock (v : Variant) (p : PadMode) : Block := { Block.reset with V := v, P := p, inited := true }

/-- The same with a command accepted. -/
def busyBlock (i : Instr) : Block := acceptCmd i (initBlock .sha3_224 .keccak)

/-- The host has the next two turns, and makes these accesses. -/
def hostState (b : Block) (ops : List HostOp) : State :=
  { State.reset with blk := b, host := ops, sched := [.host, .host] }

/-- The engine has the next turn. -/
def engineState (b : Block) : State := { State.reset with blk := b, actor := .engine, sched := [.engine] }

/-- The next turn is `t`, and the host has these accesses. -/
def turnState (t : Turn) (ops : List HostOp) : State :=
  { State.reset with host := ops, sched := [t] }

/-- What a step leaves of the block. -/
def afterStep {α : Type} (s : State) (f : Block → α) : Option α :=
  match step s with
  | .next t => some (f t.blk)
  | .fault _ => none
  | .refused _ => none

/-- What one write leaves of the block. -/
def afterWrite {α : Type} (b : Block) (a : Offset) (d : Word) (f : Block → α) : Option α :=
  afterStep (hostState b [.wr a d]) f

/-- What the completion of a pending command leaves of the block. -/
def afterCompletion {α : Type} (b : Block) (f : Block → α) : Option α := afterStep (engineState b) f

/-- The value one read delivers. -/
def readBack (b : Block) (a : Offset) : Option Word :=
  match step (hostState b [.rd a]) with
  | .next t => t.received.head?
  | .fault _ => none
  | .refused _ => none

/-! ### WellFormed: an ill-formed term for each check (30_encoding.md R95) -/

theorem test_wf_refuses_nbytes_5 : (Instr.absorb 5).wf = false := by decide
theorem test_wf_refuses_nbytes_6 : (Instr.absorb 6).wf = false := by decide
theorem test_wf_refuses_nbytes_7 : (Instr.absorb 7).wf = false := by decide
theorem test_wf_accepts_nbytes_4 : (Instr.absorb 4).wf = true := by decide

/-! ### Decoding: words written field by field, RSV ++ ARG ++ OP (30_encoding.md R90, R93 to R98) -/

theorem test_decode_nop : decode (0b0000000000000000#16 ++ 0b00000000#8 ++ 0b00000000#8) = .ok .nop := by rfl

/-- VARIANT is ARG bits 1:0 and PADMODE is ARG bit 4. -/
theorem test_decode_init :
    decode (0b0000000000000000#16 ++ 0b00010011#8 ++ 0b00000001#8) = .ok (.init .sha3_512 .fips202) ∧
    decode (0b0000000000000000#16 ++ 0b00000010#8 ++ 0b00000001#8) = .ok (.init .sha3_384 .keccak) ∧
    decode (0b0000000000000000#16 ++ 0b00000001#8 ++ 0b00000001#8) = .ok (.init .sha3_256 .keccak) := by
  refine ⟨rfl, rfl, rfl⟩

/-- NBYTES is ARG bits 2:0. -/
theorem test_decode_absorb :
    decode (0b0000000000000000#16 ++ 0b00000100#8 ++ 0b00000010#8) = .ok (.absorb 4) ∧
    decode (0b0000000000000000#16 ++ 0b00000011#8 ++ 0b00000010#8) = .ok (.absorb 3) := by
  refine ⟨rfl, rfl⟩

theorem test_decode_final :
    decode (0b0000000000000000#16 ++ 0b00000000#8 ++ 0b00000011#8) = .ok .final := by rfl

theorem test_decode_permute :
    decode (0b0000000000000000#16 ++ 0b00000000#8 ++ 0b00000100#8) = .ok .permute := by rfl

theorem test_decode_sreset :
    decode (0b0000000000000000#16 ++ 0b00000000#8 ++ 0b00001111#8) = .ok .sreset := by rfl

/-- The illegal words of 95_test_vectors.md D-E1, each for its reason. -/
theorem test_decode_illegal :
    decode 0x00000401#32 = .error .initReservedBits ∧ decode 0x00002001#32 = .error .initReservedBits ∧
    decode 0x00000502#32 = .error .nbytesTooLarge ∧ decode 0x00000802#32 = .error .absorbReservedBits ∧
    decode 0x00000103#32 = .error .argNonZero ∧ decode 0x00000005#32 = .error .reservedOp ∧
    decode 0x0000010F#32 = .error .argNonZero ∧ decode 0x000000FF#32 = .error .reservedOp ∧
    decode 0x00010000#32 = .error .rsvNonZero := by
  refine ⟨rfl, rfl, rfl, rfl, rfl, rfl, rfl, rfl, rfl⟩

/-! ### The step tables of the engine (95_test_vectors.md V6, V9) -/

/-- θ of the state with A[0][0] = 1: columns 1 and 4 (V6). -/
theorem test_theta :
    theta (buildLanes fun x y => if x = 0 ∧ y = 0 then 1 else 0) =
      buildLanes fun x y => if x = 1 then 1 else if x = 4 then 2 else if x = 0 ∧ y = 0 then 1 else 0 := by
  decide +kernel

/-- ρ of the state with every lane 1: row y = 1 of V6. -/
theorem test_rho :
    (List.range 5).map (fun x => lane (rho (buildLanes fun _ _ => 1)) x 1) =
      [0x0000001000000000#64, 0x0000100000000000#64, 0x0000000000000040#64, 0x0080000000000000#64,
        0x0000000000100000#64] := by
  decide +kernel

/-- π of the tag state: rows y = 0 and 1 of V6. -/
theorem test_pi :
    (List.range 2).map (fun y => (List.range 5).map fun x =>
      lane (piStep (buildLanes fun x y => BitVec.ofNat 64 (16 * x + y))) x y) =
      [[0x00, 0x11, 0x22, 0x33, 0x44], [0x30, 0x41, 0x02, 0x13, 0x24]] := by
  decide +kernel

/-- χ of the row (0, 0xF, 0xFF, 0, 0) (V6). -/
theorem test_chi :
    (List.range 5).map (fun x =>
      lane (chi (buildLanes fun x y => if y = 0 then ([0x0, 0xF, 0xFF, 0x0, 0x0].getD x 0) else 0)) x 0) =
      [0xF0, 0xF, 0xFF, 0x0, 0xF] := by
  decide +kernel

/-- Rounds 0 and 1 of the zero state: row y = 0 of V9. -/
theorem test_two_rounds :
    (List.range 5).map (fun x =>
      lane (keccakRound (keccakRound (Vector.replicate 25 0) 0) 1) x 0) =
      [0x0000000000008083#64, 0x0000100000000000#64, 0x0000000000008000#64, 0x0000000000000001#64,
        0x0000100000008000#64] := by
  decide +kernel

/-- A rotation on a pair of words, across both halves (41_permutation.md R123). -/
theorem test_rot_pair :
    buildRot .pair32 0x8000000000000001#64 33 = 0x0000000300000000#64 ∧
    buildRot .pair32 0x0123456789ABCDEF#64 32 = 0x89ABCDEF01234567#64 ∧
    buildRot .pair32 0x0123456789ABCDEF#64 4 = 0x123456789ABCDEF0#64 := by
  decide

/-! ### The commands -/

/-- NOP after reset: accepted, and STATUS reads 0x00000008 after it completes (43_facade.md R172). -/
theorem test_nop :
    afterWrite Block.reset 0x008 0x00000000 statusWord = some 0x00000001#32 ∧
    afterCompletion (acceptCmd .nop Block.reset) statusWord = some 0x00000008#32 := by
  decide +kernel

/-- INIT sha3_512: the registers of 43_facade.md R175's example, and V3. -/
theorem test_init :
    afterCompletion (acceptCmd (.init .sha3_512 .keccak) Block.reset)
      (fun b => [Reg.mode, .digestSize, .blockSize, .rate, .capacity, .count, .status].map (regValue b)) =
      some [0x00000003, 64, 72, 576, 1024, 0, 0x0000000A] := by
  decide +kernel

/-- INIT after a FINAL: DIGEST keeps the last FINAL's output, and DIGEST_VALID is 0 (10_state.md R27, D33,
U13; log 21). -/
theorem test_init_keeps_digest :
    afterCompletion
      (acceptCmd (.init .sha3_512 .keccak) { initBlock .sha3_224 .keccak with
        DG := Vector.replicate 64 0x5A, DV := true })
      (fun b => [Reg.digest 0, .digest 15, .status].map (regValue b)) =
      some [0x5A5A5A5A, 0x5A5A5A5A, 0x0000000A] := by
  decide +kernel

/-- ABSORB 4 of "abcd" after INIT (95_test_vectors.md D-A1, P2). -/
theorem test_absorb :
    afterCompletion (acceptCmd (.absorb 4) { initBlock .sha3_224 .keccak with dataIn := 0x64636261 })
      (fun b => [Reg.count, .buf 0, .buf 1, .state 0, .status].map (regValue b)) =
      some [4, 0x64636261, 0, 0, 0x0000000A] := by
  decide +kernel

/-- ABSORB 4 across a block's end, n = 142 (D-A1): n = 2, and the two bytes left over are in BUF[0]. -/
theorem test_absorb_completes_a_block :
    afterCompletion
      (acceptCmd (.absorb 4) { initBlock .sha3_224 .keccak with
        B := Vector.replicate 144 0x61, n := 142, dataIn := 0x61616161 })
      (fun b => [Reg.count, .buf 0, .buf 35].map (regValue b)) = some [2, 0x00006161, 0] := by
  decide +kernel

/-- FINAL of the empty message: the first word of the source's own vector (V1). -/
theorem test_final :
    afterCompletion (acceptCmd .final (initBlock .sha3_224 .keccak)) (fun b => regValue b (.digest 0)) =
      some 0x503718F7 := by
  decide +kernel

/-- FINAL writes zeros past the digest, and sets DIGEST_VALID and DONE (V1, P1). -/
theorem test_final_flags :
    afterCompletion (acceptCmd .final (initBlock .sha3_224 .keccak))
      (fun b => [Reg.digest 7, .digest 15, .status].map (regValue b)) = some [0, 0, 0x0000000E] := by
  decide +kernel

/-- PERMUTE of the zero state without an INIT: the high word of lane A[0][0] (V7, P4). -/
theorem test_permute :
    afterCompletion (acceptCmd .permute Block.reset) (fun b => regValue b (.state 1)) =
      some 0xF1258F79 := by
  decide +kernel

/-- PERMUTE's flags: DONE only, INITED = 0 (P4). -/
theorem test_permute_flags :
    afterCompletion (acceptCmd .permute Block.reset) (fun b => regValue b .status) = some 0x00000008 := by
  decide +kernel

/-- SRESET while busy: STATUS, MODE and IRQ_EN read 0 (43_facade.md R180). -/
theorem test_sreset :
    afterWrite { busyBlock (.absorb 4) with V := .sha3_512, irqEn := 3, errSeq := true } 0x008 0x0000000F
      (fun b => ([Reg.status, .mode, .irqEn].map (regValue b), b.pend)) = some ([0, 0, 0], none) := by
  decide +kernel

/-! ### Padding, errors, the window -/

/-- PadBlock at n = rb - 1: both marks in one byte (D-P1). -/
theorem test_pad_last_byte :
    (padBlock (Vector.replicate 144 0x61) 71 .keccak 72).toList.drop 70 = [0x61, 0x81] ∧
    (padBlock (Vector.replicate 144 0x61) 71 .fips202 72).toList.drop 70 = [0x61, 0x86] := by
  decide +kernel

/-- ABSORB before INIT: ERR_SEQ, the capture, and irq with ERR_IE (P6). -/
theorem test_err_seq :
    afterWrite { Block.reset with irqEn := 2 } 0x008 0x00000402
      (fun b => ([Reg.status, .errAddr, .errData].map (regValue b), irq b)) =
      some ([0x00000400, 0x00000008, 0x00000402], true) := by
  decide +kernel

/-- An illegal word after that: ERR_CMD, the first capture kept (P6). -/
theorem test_err_cmd_keeps_first_capture :
    afterWrite { Block.reset with errSeq := true, errAddr := 0x008, errData := 0x00000402 } 0x008 0x00000502
      (fun b => [Reg.status, .errAddr, .errData].map (regValue b)) =
      some [0x00000600, 0x00000008, 0x00000402] := by
  decide +kernel

/-- COUNT written with 144 after INIT sha3_224: ERR_COUNT (P6). -/
theorem test_err_count :
    afterWrite { initBlock .sha3_224 .keccak with done := true } 0x018 0x00000090
      (fun b => [Reg.status, .errAddr, .errData, .count].map (regValue b)) =
      some [0x0000080A, 0x00000018, 0x00000090, 0] := by
  decide +kernel

/-- FINAL while busy: ERR_BUSY, the pending command undisturbed (P6). -/
theorem test_err_busy :
    afterWrite (busyBlock (.absorb 4)) 0x008 0x00000003
      (fun b => ([Reg.status, .errAddr, .errData].map (regValue b), b.pend.map (·.op))) =
      some ([0x00000103, 0x00000008, 0x00000003], some 0x02) := by
  decide +kernel

/-- The registers after reset (D-R1), read at their offsets, and a reserved one. -/
theorem test_reset_registers :
    [0x000, 0x008, 0x00C, 0x020, 0x024, 0x028, 0x02C, 0x100, 0x038, 0xFFC].map (readBack Block.reset) =
      [some 0x4B454343, some 0, some 0, some 0x1C, some 0x90, some 0x480, some 0x1C0, some 0, some 0,
        some 0] := by
  decide +kernel

/-- A STATE word written is read back, and is the low half of its lane (10_state.md R48). -/
theorem test_state_window :
    afterWrite Block.reset 0x1C0 0x04030201 (fun b => (regValue b (.state 48), lane (lanesOf b.S) 4 4)) =
      some (0x04030201, 0x0000000004030201) := by
  decide +kernel

/-- The lowercase text of two bytes, high nibble first (43_facade.md R186). -/
theorem test_hex_digest : hexDigest [0xF7, 0x18] = ['f', '7', '1', '8'] := by decide

/-! ### Witnesses: the hypotheses of each statement, met together -/

theorem witness_DecodeOfEncode :
    (Instr.absorb 0).wf = true ∧ (Instr.absorb 4).wf = true ∧ Instr.sreset.wf = true := by decide

theorem witness_EncodeOfDecode : decode 0x00001301#32 = .ok (.init .sha3_512 .fips202) := by rfl

theorem witness_IllegalWordsRejected :
    illegalWord 0x00000502#32 = true ∧ illegalWord 0x00000402#32 = false ∧
    HostWrites (hostState Block.reset [.wr 0x00B 0x00000502]) 0x00B 0x00000502 ∧
    regAt 0x00B = some .cmd ∧ (hostState Block.reset [.wr 0x00B 0x00000502]).blk.busy = false :=
  ⟨by decide, by decide, ⟨⟨rfl, rfl⟩, rfl⟩, rfl, rfl⟩

theorem witness_StepRunsDecodedInstruction :
    (HostWrites (hostState Block.reset [.wr 0x008 0x00000004]) 0x008 0x00000004 ∧
      alignOffset 0x008 = 0x008#12 ∧ decode 0x00000004#32 = .ok .permute) ∧
    Completes (engineState (busyBlock .final)) .final :=
  ⟨⟨⟨⟨rfl, rfl⟩, rfl⟩, rfl, rfl⟩, ⟨rfl, rfl⟩, rfl, rfl⟩

theorem witness_PlacedWordRunsNext :
    decodeTableWord 32 0x402 = some (.absorb 4) ∧ decodeTableWord 8 0x04 = some .permute := by
  refine ⟨by rfl, by rfl⟩

/-- Each branch of the procedure: SRESET, busy, illegal, before INIT, accepted. -/
theorem witness_CmdWriteProcedure :
    (∀ c b, HostWrites (hostState b [.wr 0x008 c]) 0x008 c) ∧ regAt 0x008 = some .cmd ∧
    (busyBlock .nop).busy = true ∧ illegalWord 0x0000010F#32 = true ∧ Block.reset.inited = false ∧
    illegalWord 0x00000003#32 = false ∧ (initBlock .sha3_224 .keccak).inited = true :=
  ⟨fun _ _ => ⟨⟨rfl, rfl⟩, rfl⟩, rfl, rfl, by decide, rfl, by decide, rfl⟩

/-- NOP, INIT, FINAL and PERMUTE: the engine's step with the command pending. -/
theorem witness_completions :
    ∀ i : Instr, ∃ p, (engineState (busyBlock i)).actor = .engine ∧
      (engineState (busyBlock i)).blk.pend = some p := fun _ => ⟨_, rfl, rfl⟩

/-- ABSORB: short of a block, to its last byte, filling it exactly, and past its end. -/
theorem witness_AbsorbCompletes :
    ∀ n ∈ [139, 140, 142], ∃ p,
      (engineState { busyBlock (.absorb 4) with n := BitVec.ofNat 8 n }).actor = .engine ∧
      (engineState { busyBlock (.absorb 4) with n := BitVec.ofNat 8 n }).blk.pend = some p ∧
      (4 : BitVec 3).toNat ≤ 4 ∧ (0 : BitVec 3).toNat ≤ 4 ∧ n < rb .sha3_224 ∧ (n = 139 ↔ n + 4 < rb .sha3_224) :=
  fun n hn => ⟨_, rfl, rfl, by decide, by decide, by revert n; decide, by revert n; decide⟩

/-- A rejection for each cause, at the edge of its range, and a write that is not rejected. -/
theorem witness_RejectedWriteChangesOnlyItsFlag :
    (∀ b a d, HostWrites (hostState b [.wr a d]) a d) ∧
    rejection (busyBlock .nop) 0x28C 0 = some .busy ∧ rejection (busyBlock .nop) 0x008 0x00000502 = some .busy ∧
    rejection Block.reset 0x008 0x00000502 = some .cmd ∧ rejection Block.reset 0x008 0x00000402 = some .seq ∧
    rejection Block.reset 0x018 144 = some .count ∧ rejection Block.reset 0x018 143 = none ∧
    rejection (busyBlock .nop) 0x008 0x0000000F = none :=
  ⟨fun _ _ _ => ⟨⟨rfl, rfl⟩, rfl⟩, by decide, by decide, by decide, by decide, by decide, by decide, by decide⟩

/-- A step that sets a flag, and one that clears it. -/
theorem witness_ErrorFlagsAreSticky :
    (∃ t, step (hostState Block.reset [.wr 0x018 144]) = .next t ∧ errFlag .count Block.reset = false ∧
      errFlag .count t.blk = true ∧ nextTurn (hostState Block.reset [.wr 0x018 144]) ≠ .powerCycle) ∧
    ∃ t, step (hostState { Block.reset with errSeq := true } [.wr 0x00C 0x400]) = .next t ∧
      errFlag .seq { Block.reset with errSeq := true } = true ∧ errFlag .seq t.blk = false :=
  ⟨⟨_, rfl, rfl, rfl, by decide⟩, _, rfl, rfl, rfl⟩

/-- A clearing write to STATUS, then the completion of the pending NOP. -/
def clearThenComplete : State :=
  { hostState (busyBlock .nop) [.wr 0x00C 8] with sched := [.host, .engine] }

theorem witness_DoneFlag :
    Completes (engineState (busyBlock .nop)) .nop ∧ (busyBlock .nop).done = false ∧
    (∃ t, step (engineState (busyBlock .nop)) = .next t ∧ t.blk.done = true) ∧
    HostWrites (hostState Block.reset [.wr 0x018 144]) 0x018 144 ∧ rejection Block.reset 0x018 144 = some .count ∧
    HostWrites (hostState Block.reset [.wr 0x008 0x0000000F]) 0x008 0x0000000F ∧ regAt 0x008 = some .cmd ∧
    (nextTurn (turnState .reset []) = .reset ∧ nextTurn (turnState .resetWithAccess []) = .resetWithAccess) ∧
    (HostWrites clearThenComplete 0x00C 8 ∧ regAt 0x00C = some .status ∧ (8 : Word).getLsbD 3 = true ∧
      ∃ t, step clearThenComplete = .next t ∧ Completes t .nop) :=
  ⟨⟨⟨rfl, rfl⟩, rfl, rfl⟩, rfl, ⟨_, rfl, rfl⟩, ⟨⟨rfl, rfl⟩, rfl⟩, by decide, ⟨⟨rfl, rfl⟩, rfl⟩, rfl, ⟨rfl, rfl⟩,
    ⟨⟨rfl, rfl⟩, rfl⟩, rfl, rfl, _, rfl, ⟨rfl, rfl⟩, rfl, rfl⟩

/-- The edges of the four reserved ranges, and their neighbours. -/
theorem witness_AddressDecoding :
    [0x038, 0x03F, 0x080, 0x0FF, 0x1C8, 0x1FF, 0x290, 0xFFF].map regAt = List.replicate 8 none ∧
    [0x037, 0x040, 0x07F, 0x100, 0x1C7, 0x200, 0x28F].map regAt =
      [some .errData, some (.digest 0), some (.digest 15), some (.state 0), some (.state 49), some (.buf 0),
        some (.buf 35)] ∧
    (0x00B : Offset).extractLsb' 2 10 = (0x008 : Offset).extractLsb' 2 10 ∧
    HostReads (hostState Block.reset [.rd 0xFFF]) 0xFFF ∧
    HostWrites (hostState Block.reset [.wr 0x290 7]) 0x290 7 ∧
    HostWrites (hostState Block.reset [.wr 0x07C 7]) 0x07C 7 ∧ regAt 0x07C = some (.digest 15) :=
  ⟨by decide, by decide, by decide, ⟨⟨rfl, rfl⟩, rfl⟩, ⟨⟨rfl, rfl⟩, rfl⟩, ⟨⟨rfl, rfl⟩, rfl⟩, rfl⟩

theorem witness_ExactReadDeliversRegister :
    HostReads (hostState Block.reset [.rd 0x1C4]) 0x1C4 ∧ regAt 0x1C4 = some (.state 49) ∧
    Block.reset.busy = false ∧ HostReads (hostState (busyBlock .nop) [.rd 0x034]) 0x034 ∧
    regAt 0x034 = some .errData ∧ (busyBlock .nop).busy = true ∧
    Reg.errData ∈ [Reg.id, .params, .cmd, .status, .irqEn, .dataIn, .mode, .digestSize, .blockSize, .rate,
      .capacity, .errAddr, .errData] :=
  ⟨⟨⟨rfl, rfl⟩, rfl⟩, rfl, rfl, ⟨⟨rfl, rfl⟩, rfl⟩, rfl, rfl, by decide⟩

/-- Each register that R51 lists as exact, read on a busy block at its offset. -/
theorem witness_exact_reads_while_busy :
    ∀ q ∈ ([(0x000, .id), (0x004, .params), (0x008, .cmd), (0x00C, .status), (0x010, .irqEn),
        (0x014, .dataIn), (0x01C, .mode), (0x020, .digestSize), (0x024, .blockSize), (0x028, .rate),
        (0x02C, .capacity), (0x030, .errAddr), (0x034, .errData)] : List (Offset × Reg)),
      HostReads (hostState (busyBlock .nop) [.rd q.1]) q.1 ∧ (busyBlock .nop).busy = true ∧
        regAt q.1 = some q.2 :=
  fun q hq => ⟨⟨⟨rfl, rfl⟩, rfl⟩, rfl, by
    simp at hq
    rcases hq with rfl | rfl | rfl | rfl | rfl | rfl | rfl | rfl | rfl | rfl | rfl | rfl | rfl <;> rfl⟩

/-- Two reads in a row, exact ones and any32 ones. -/
theorem witness_ReadsHaveNoSideEffects :
    (∃ t, step (hostState Block.reset [.rd 0x100, .rd 0x100]) = .next t ∧
      HostReads (hostState Block.reset [.rd 0x100, .rd 0x100]) 0x100 ∧ HostReads t 0x100 ∧
      readIsFree Block.reset 0x100 = false) ∧
    ∃ t, step (hostState (busyBlock .nop) [.rd 0x100, .rd 0x100]) = .next t ∧
      HostReads (hostState (busyBlock .nop) [.rd 0x100, .rd 0x100]) 0x100 ∧ HostReads t 0x100 ∧
      readIsFree (busyBlock .nop) 0x100 = true :=
  ⟨⟨_, rfl, ⟨⟨rfl, rfl⟩, rfl⟩, ⟨⟨rfl, rfl⟩, rfl⟩, rfl⟩, _, rfl, ⟨⟨rfl, rfl⟩, rfl⟩, ⟨⟨rfl, rfl⟩, rfl⟩, rfl⟩

/-- Two busy blocks that differ, read at COUNT and at the last word of each window. -/
theorem witness_BusyReadsRevealNothing :
    ∀ a ∈ ([0x018, 0x07C, 0x1C4, 0x28C] : List Offset),
      HostReads (hostState (busyBlock .nop) [.rd a]) a ∧
      HostReads (hostState { busyBlock .final with n := 7 } [.rd a]) a ∧
      (busyBlock .nop).busy = true ∧ { busyBlock .final with n := 7 }.busy = true ∧ (regAt a).isSome = true :=
  fun a ha => ⟨⟨⟨rfl, rfl⟩, rfl⟩, ⟨⟨rfl, rfl⟩, rfl⟩, rfl, rfl, by simp at ha; rcases ha with rfl | rfl | rfl | rfl <;> rfl⟩

theorem witness_IdAndParams :
    HostReads (hostState Block.reset [.rd 0x000]) 0x000 ∧ regAt 0x000 = some .id ∧
    HostReads (hostState (busyBlock .nop) [.rd 0x007]) 0x007 ∧ regAt 0x007 = some .params ∧
    HostWrites (hostState Block.reset [.wr 0x000 1]) 0x000 1 ∧
    HostWrites (hostState Block.reset [.wr 0x004 1]) 0x004 1 :=
  ⟨⟨⟨rfl, rfl⟩, rfl⟩, rfl, ⟨⟨rfl, rfl⟩, rfl⟩, rfl, ⟨⟨rfl, rfl⟩, rfl⟩, ⟨⟨rfl, rfl⟩, rfl⟩⟩

theorem witness_StatusWriteClearsOnes :
    HostWrites (hostState Block.reset [.wr 0x00F 0x00000F08]) 0x00F 0x00000F08 ∧ regAt 0x00F = some .status :=
  ⟨⟨⟨rfl, rfl⟩, rfl⟩, rfl⟩

theorem witness_Metadata :
    ∀ a ∈ ([0x020, 0x024, 0x028, 0x02C] : List Offset),
      HostWrites (hostState Block.reset [.wr a 5]) a 5 ∧
      (regAt a).any (fun r => [Reg.digestSize, .blockSize, .rate, .capacity].contains r) = true :=
  fun a ha => ⟨⟨⟨rfl, rfl⟩, rfl⟩, by simp at ha; rcases ha with rfl | rfl | rfl | rfl <;> rfl⟩

/-- A write to MODE, and an INIT whose completion changes V and P. -/
theorem witness_ModeAndItsWriters :
    HostWrites (hostState Block.reset [.wr 0x01C 3]) 0x01C 3 ∧ regAt 0x01C = some .mode ∧
    ∃ t, step (engineState (busyBlock (.init .sha3_512 .fips202))) = .next t ∧
      t.blk.V ≠ (busyBlock (.init .sha3_512 .fips202)).V ∧ t.blk.P ≠ (busyBlock (.init .sha3_512 .fips202)).P :=
  ⟨⟨⟨rfl, rfl⟩, rfl⟩, rfl, _, rfl, by decide, by decide⟩

/-- IRQ_EN, DATA_IN, COUNT, DIGEST, STATE and BUF: a read and a write of each, at the last word. -/
theorem witness_window_accesses :
    ∀ q ∈ ([(0x010, .irqEn), (0x014, .dataIn), (0x018, .count), (0x040, .digest 0), (0x07C, .digest 15),
        (0x100, .state 0), (0x1C4, .state 49), (0x200, .buf 0), (0x28C, .buf 35)] : List (Offset × Reg)),
      HostReads (hostState Block.reset [.rd q.1]) q.1 ∧ HostWrites (hostState Block.reset [.wr q.1 9]) q.1 9 ∧
      HostWrites (hostState (busyBlock .nop) [.wr q.1 9]) q.1 9 ∧
      Block.reset.busy = false ∧ (busyBlock .nop).busy = true ∧ regAt q.1 = some q.2 :=
  fun q hq => ⟨⟨⟨rfl, rfl⟩, rfl⟩, ⟨⟨rfl, rfl⟩, rfl⟩, ⟨⟨rfl, rfl⟩, rfl⟩, rfl, rfl, by
    simp at hq
    rcases hq with rfl | rfl | rfl | rfl | rfl | rfl | rfl | rfl | rfl <;> rfl⟩

/-- DATA_IN's capture: an ABSORB accepted. -/
theorem witness_DataInRegister :
    (hostState (initBlock .sha3_224 .keccak) []).actor = .host ∧ (initBlock .sha3_224 .keccak).busy = false ∧
    (initBlock .sha3_224 .keccak).inited = true ∧ (4 : BitVec 3).toNat ≤ 4 := by decide

/-- COUNT's bounds for each variant: rb - 1 is stored, rb and the largest word are rejected. -/
theorem witness_CountRegister :
    (143 : Word).toNat < rb .sha3_224 ∧ rb .sha3_224 ≤ (144 : Word).toNat ∧
    (71 : Word).toNat < rb .sha3_512 ∧ rb .sha3_512 ≤ (72 : Word).toNat ∧
    rb .sha3_256 ≤ (0xFFFFFFFF : Word).toNat ∧ rb .sha3_384 ≤ (0x100 : Word).toNat := by decide

/-- BUF words beyond the block: the first and the last for SHA3-512. -/
theorem witness_BufWindow :
    (initBlock .sha3_512 .keccak).n.toNat < rb (initBlock .sha3_512 .keccak).V ∧
    rb (initBlock .sha3_512 .keccak).V / 4 ≤ (18 : Fin 36).val ∧
    rb (initBlock .sha3_512 .keccak).V / 4 ≤ (35 : Fin 36).val := by decide

theorem witness_ResetEdge :
    nextTurn (turnState .reset [.rd 0x000]) = .reset ∧
    nextTurn (turnState .reset [.wrNarrow .byte 0x014 1]) = .reset ∧
    nextTurn (turnState .resetWithAccess [.wr 0x008 4]) = .resetWithAccess ∧
    (∀ size a d, (turnState .resetWithAccess [.wr 0x008 4]).host.head? ≠ some (.wrNarrow size a d)) :=
  ⟨rfl, rfl, rfl, fun _ _ _ h => by simp [turnState] at h⟩

theorem witness_SresetEqualsReset :
    HostWrites (hostState (busyBlock .final) [.wr 0x008 0x0000000F]) 0x008 0x0000000F ∧ regAt 0x008 = some .cmd ∧
    (0x0000010F#32).extractLsb' 0 8 = 0x0F#8 ∧ 0x0000010F#32 ≠ 0x0000000F#32 :=
  ⟨⟨⟨rfl, rfl⟩, rfl⟩, rfl, by decide, by decide⟩

theorem witness_AccessUnderReset :
    nextTurn (turnState .resetWithAccess [.wr 0x008 4]) = .resetWithAccess ∧
    (turnState .resetWithAccess [.wr 0x008 4]).host.head? = some (.wr 0x008 4) ∧
    nextTurn (turnState .resetWithAccess [.rd 0x000]) = .resetWithAccess ∧
    (turnState .resetWithAccess [.rd 0x000]).host.head? = some (.rd 0x000) := by
  refine ⟨rfl, rfl, rfl, rfl⟩

theorem witness_WhereTheModelStops :
    ({ turnState .host [] with wasReset := false }).wasReset = false ∧
    nextTurn { turnState .host [] with wasReset := false } = .host ∧
    nextTurn { turnState .engine [] with wasReset := false } = .engine ∧
    nextTurn { turnState .reset [] with wasReset := false } = .reset ∧
    (nextTurn { turnState .resetWithAccess [.wr 0x008 4] with wasReset := false } = .resetWithAccess ∧
      ∀ size a d, { turnState .resetWithAccess [.wr 0x008 4] with wasReset := false }.host.head? ≠
        some (.wrNarrow size a d)) ∧
    nextTurn { turnState .powerCycle [] with wasReset := false } = .powerCycle ∧
    HostTurn (turnState .host [.wrNarrow .byte 0x014 1]) ∧
    (turnState .host [.wrNarrow .byte 0x014 1]).host.head? = some (.wrNarrow .byte 0x014 1) ∧
    nextTurn (turnState .resetWithAccess [.wrNarrow .half 0x014 1]) = .resetWithAccess :=
  ⟨rfl, rfl, rfl, rfl, ⟨rfl, fun _ _ _ h => by simp [turnState] at h⟩, rfl, ⟨rfl, rfl⟩, rfl, rfl⟩

/-- The host's turn is no reset unless it writes the SRESET word. -/
theorem hostState_not_reset {b : Block} {a : Offset} {d : Word} (h : d ≠ 0x0000000F#32) :
    ¬ResetsBlock (hostState b [.wr a d]) := by
  rintro (h' | h' | h' | ⟨a', _, _, h'⟩)
  · exact absurd h' (by simp [nextTurn, hostState])
  · exact absurd h' (by simp [nextTurn, hostState])
  · exact absurd h' (by simp [nextTurn, hostState])
  · simp [hostState] at h'; exact h h'.2

/-- A write while a command is pending, and one that is accepted. -/
theorem witness_EffectsOnlyAtCompletion :
    (∃ t, step (hostState (busyBlock .permute) [.wr 0x100 1]) = .next t) ∧
    ¬ResetsBlock (hostState (busyBlock .permute) [.wr 0x100 1]) ∧ (busyBlock .permute).busy = true ∧
    (∀ i, ¬Completes (hostState (busyBlock .permute) [.wr 0x100 1]) i) ∧
    (∃ t, step (hostState Block.reset [.wr 0x008 4]) = .next t) ∧
    ¬ResetsBlock (hostState Block.reset [.wr 0x008 4]) ∧
    HostWrites (hostState Block.reset [.wr 0x008 4]) 0x008 4 ∧ regAt 0x008 = some .cmd :=
  ⟨⟨_, rfl⟩, hostState_not_reset (by decide), rfl, fun i h => absurd h.1.2 (by simp [nextTurn, hostState]),
    ⟨_, rfl⟩, hostState_not_reset (by decide), ⟨⟨rfl, rfl⟩, rfl⟩, rfl⟩

theorem witness_StateBytesWriters :
    ∃ t, step (hostState Block.reset [.wr 0x1C4 1]) = .next t ∧ t.blk.S ≠ Block.reset.S :=
  ⟨_, rfl, fun h => by
    have h' := congrArg (fun v : Bytes 200 => v.getD 196 0) h
    revert h'
    decide +kernel⟩

/-- DV set, DV cleared by a completion and by an accepted write, DG changed. -/
theorem witness_DigestValidRule :
    (∃ t, step (engineState (busyBlock .final)) = .next t ∧ (busyBlock .final).DV = false ∧ t.blk.DV = true ∧
      nextTurn (engineState (busyBlock .final)) ≠ .powerCycle) ∧
    Completes (engineState (busyBlock (.absorb 0))) (.absorb 0) ∧
    HostWrites (hostState Block.reset [.wr 0x018 143]) 0x018 143 ∧ regAt 0x018 = some .count ∧
    rejection Block.reset 0x018 143 = none ∧
    (∃ t, step { turnState .reset [] with blk := { Block.reset with DG := Vector.replicate 64 1 } } = .next t ∧
      t.blk.DG ≠ Vector.replicate 64 1) :=
  ⟨⟨_, rfl, rfl, rfl, by simp [nextTurn, engineState]⟩, ⟨⟨rfl, rfl⟩, rfl, rfl⟩, ⟨⟨rfl, rfl⟩, rfl⟩, rfl, by decide,
    _, rfl, fun h => by
      have h' := congrArg (fun v : Bytes 64 => v.getD 0 0) h
      revert h'
      decide +kernel⟩

theorem witness_InitedRule :
    (∃ t, step (turnState .reset []) = .next t ∧ ResetsBlock (turnState .reset [])) ∧
    (∃ t, step (engineState (acceptCmd (.init .sha3_224 .keccak) Block.reset)) = .next t ∧
      Completes (engineState (acceptCmd (.init .sha3_224 .keccak) Block.reset)) (.init .sha3_224 .keccak) ∧
      t.blk.inited ≠ Block.reset.inited) ∧
    nextTurn (turnState .reset []) ≠ .powerCycle ∧ State.reset.actor = .host ∧ State.reset.blk.inited = false ∧
    needsInit (.absorb 4) = true ∧ needsInit .final = true ∧
    State.reset.blk.busy = false ∧ (Instr.absorb 4).wf = true ∧ (Instr.absorb 5).wf = false ∧
    ((hostState (acceptCmd .nop Block.reset) []).actor = .host ∧ (acceptCmd .nop Block.reset).busy = true ∧
      (acceptCmd .nop Block.reset).inited = false) :=
  ⟨⟨_, rfl, .inl rfl⟩, ⟨_, rfl, ⟨⟨rfl, rfl⟩, rfl, rfl⟩, by decide⟩, by simp [nextTurn, turnState], rfl, rfl, rfl, rfl,
    rfl, by decide, by decide, rfl, rfl, rfl⟩

/-- An INIT block with a command pending meets the invariant. -/
theorem busyBlock_inv : (busyBlock .final).Inv :=
  ⟨by decide, by decide, fun h => by simp [busyBlock, initBlock, acceptCmd] at h,
    fun h => by simp [busyBlock, initBlock, acceptCmd, Block.reset] at h⟩

/-- A block with its digest valid meets the invariant. -/
theorem finalized_inv : (finishCmd (finalBlock (initBlock .sha3_256 .fips202))).Inv :=
  ⟨by decide, rfl, fun h => by simp [finishCmd, finalBlock, initBlock] at h, fun _ => by
    simp [finishCmd, finalBlock, finalize]⟩

theorem witness_NoStepIsStuck :
    (engineState (busyBlock .final)).Inv ∧ (engineState (busyBlock .final)).wasReset = true ∧
    (∀ size a d, (engineState (busyBlock .final)).host.head? ≠ some (.wrNarrow size a d)) ∧
    nextTurn (engineState (busyBlock .final)) = .engine ∧ (engineState (busyBlock .final)).blk.busy = true :=
  ⟨fun _ => busyBlock_inv, rfl, fun _ _ _ h => by simp [engineState, State.reset] at h, rfl, rfl⟩

theorem witness_StepKeepsInvariant :
    (engineState (busyBlock .final)).Inv ∧ (∃ t, step (engineState (busyBlock .final)) = .next t) ∧
    (engineState (finishCmd (finalBlock (initBlock .sha3_256 .fips202)))).Inv :=
  ⟨fun _ => busyBlock_inv, ⟨_, rfl⟩, fun _ => finalized_inv⟩

theorem agentsOnly_hosts : AgentsOnly [.host, .host, .engine] := by
  intro t ht
  simp at ht
  rcases ht with rfl | rfl <;> simp

/-- WAIT with a command pending and two polls before its completion. -/
theorem witness_WaitEnds :
    let s := { hostState (busyBlock .final) [.wait, .rd 0x040] with sched := [.host, .host, .engine] }
    s.Inv ∧ s.wasReset = true ∧ s.host = .wait :: [.rd 0x040] ∧ AgentsOnly s.sched :=
  ⟨fun _ => busyBlock_inv, rfl, rfl, agentsOnly_hosts⟩

/-- The merged lane move has a target for every array: that of one with a single lane set. -/
theorem witness_MergedLaneMove :
    let A := buildLanes fun x y => BitVec.ofNat 64 (5 * x + y + 1)
    let Bm := piStep (rho A)
    ∀ x y : Fin 5, lane Bm y.val (2 * x.val + 3 * y.val) = rot (lane A x.val y.val) (rhoOffset x.val y.val) := by
  decide +kernel

theorem witness_EveryBuildComputesF : 1 ≤ 1 ∧ 1 ≤ 24 ∧ 20 ≤ 24 ∧ 24 ≤ 24 ∧ 1 ≤ 5 := by decide

theorem witness_PadBlockRule :
    0 < rb .sha3_224 ∧ 143 < rb .sha3_224 ∧ 71 < rb .sha3_512 ∧
    (∀ i, i < 3 → (Vector.replicate 144 0x61 : Bytes 144).getD i 0 =
      ((Vector.replicate 144 0x61 : Bytes 144).setIfInBounds 3 7).getD i 0) := by
  decide +kernel

theorem witness_SqueezeLoop : 1 ≤ 1 ∧ 1 ≤ 200 ∧ 200 ≤ 200 ∧ 0 < 1 ∧ 399 < 400 := by decide

theorem witness_DigestRegisterWrite :
    Completes (engineState (busyBlock .final)) .final ∧ outLen .sha3_224 ≤ 4 * (7 : Fin 16).val ∧
    (busyBlock .final).V = .sha3_224 ∧ outLen .sha3_384 ≤ 4 * (12 : Fin 16).val :=
  ⟨⟨⟨rfl, rfl⟩, rfl, rfl⟩, by decide, rfl, by decide⟩

theorem witness_FinalTwiceSameDigest :
    Ready (hostState (initBlock .sha3_224 .keccak) []) ∧ (initBlock .sha3_224 .keccak).inited = true ∧
    AgentsOnly [.host, .host, .engine] := ⟨⟨rfl, rfl⟩, rfl, agentsOnly_hosts⟩

/-- Two splits of "abcd", one with zero-byte pieces (95_test_vectors.md D-S1). -/
theorem witness_StreamSplittingInvariance :
    let l : List (BitVec 3 × Word) := [(0, 0), (4, 0x64636261), (0, 0)]
    let l' : List (BitVec 3 × Word) := [(1, 0x61), (3, 0x646362)]
    Ready (hostState (initBlock .sha3_224 .keccak) []) ∧ (initBlock .sha3_224 .keccak).inited = true ∧
    (∀ q ∈ l, q.1.toNat ≤ 4) ∧ (∀ q ∈ l', q.1.toNat ≤ 4) ∧
    (l.flatMap fun q => inputBytes q.1.toNat q.2) = (l'.flatMap fun q => inputBytes q.1.toNat q.2) ∧
    AgentsOnly [.host, .host, .engine] ∧ AgentsOnly [] :=
  ⟨⟨rfl, rfl⟩, rfl, by simp, by simp, by decide +kernel, agentsOnly_hosts, fun _ h => by simp at h⟩

/-- The programs that need only an idle block: a hash, SAVECTX and LOADCTX. -/
theorem witness_programs_on_idle_block :
    Ready State.reset ∧ AgentsOnly [.host, .host, .engine] ∧
    ({ initBlock .sha3_224 .keccak with n := 143 }).n.toNat < rb ({ initBlock .sha3_224 .keccak with n := 143 }).V :=
  ⟨⟨rfl, rfl⟩, agentsOnly_hosts, by decide⟩

end Sys2Proof.Tests
end

section

/-! The step of the machine as seen by the block, and the register window (10_state.md).

The proofs are elaborated one after the other, in the order of the text and on one thread: side by side with
the evaluations of the tests above, each of them would add a thread, and the whole would outgrow the check's
memory. The option below has that effect; what it does to section variables plays no part, as there are none. -/

set_option deprecated.oldSectionVars true

namespace Sys2Proof

/-! ### The words a CMD write takes or rejects (30_encoding.md R90 to R100) -/

/-- A word that decodes is the word of its instruction. -/
theorem encode_of_decode {c : Word} {i : Instr} (h : decode c = .ok i) : encode i = c := by
  obtain ⟨-, hrsv, hop, harg⟩ := decode_ok_fields h
  rw [encode, hop, harg, cmdWord_fields hrsv]

/-- The one word of SRESET (R98). -/
theorem decode_eq_sreset_iff {c : Word} : decode c = .ok .sreset ↔ c = 0x0000000F#32 := by
  constructor
  · intro h; exact (encode_of_decode h).symm
  · rintro rfl; rfl

/-- A field of the argument byte is a field of the word. -/
theorem argField_extractLsb' (c : Word) {j m : Nat} (h : j + m ≤ 8) :
    (argField c).extractLsb' j m = c.extractLsb' (8 + j) m := by
  apply BitVec.eq_of_getLsbD_eq
  intro k hk
  simp [argField, hk, show j + k < 8 by omega, Nat.add_assoc]

/-- A command without operands refuses every argument byte but zero. -/
theorem decodePlain_error {j : Instr} {a : Byte} {e : Illegal} (h : decodePlain j a = .error e) :
    a ≠ 0x00#8 := by
  rintro rfl
  simp [decodePlain] at h

/-- INIT refuses only argument bytes with a reserved bit set. -/
theorem decodeInit_error {a : Byte} {e : Illegal} (h : decodeInit a = .error e) :
    ¬(a.extractLsb' 2 2 = 0#2 ∧ a.extractLsb' 5 3 = 0#3) := by
  intro hz
  simp [decodeInit, hz] at h

/-- ABSORB refuses only argument bytes with a reserved bit set or NBYTES above 4. -/
theorem decodeAbsorb_error {a : Byte} {e : Illegal} (h : decodeAbsorb a = .error e) :
    ¬(a.extractLsb' 3 5 = 0#5 ∧ (a.extractLsb' 0 3).toNat ≤ 4) := by
  rintro ⟨hz, hk⟩
  rw [decodeAbsorb, if_pos hz, if_pos hk] at h
  cases h

namespace Machine

/-- The legal words are not on the list of R100. -/
theorem illegalWord_encode {i : Instr} (h : i.wf = true) : illegalWord (encode i) = false := by
  cases i with
  | init v p => cases v <;> cases p <;> rfl
  | absorb k => revert k; decide
  | _ => rfl

/-- R100's list in terms of the fields OP, ARG and RSV. -/
theorem illegalWord_iff_fields (c : Word) : illegalWord c = true ↔
    rsvField c ≠ 0#16 ∨
    (0x05 ≤ (opField c).toNat ∧ (opField c).toNat ≤ 0x0E) ∨ 0x10 ≤ (opField c).toNat ∨
    ((opField c).toNat ∈ [0x00, 0x03, 0x04, 0x0F] ∧ argField c ≠ 0x00#8) ∨
    ((opField c).toNat = 0x01 ∧
      ¬((argField c).extractLsb' 2 2 = 0#2 ∧ (argField c).extractLsb' 5 3 = 0#3)) ∨
    ((opField c).toNat = 0x02 ∧
      ¬((argField c).extractLsb' 3 5 = 0#5 ∧ ((argField c).extractLsb' 0 3).toNat ≤ 4)) := by
  rw [argField_extractLsb' c (by omega), argField_extractLsb' c (by omega),
    argField_extractLsb' c (by omega), argField_extractLsb' c (by omega)]
  simp only [illegalWord, opField, argField, rsvField, Bool.or_eq_true, Bool.and_eq_true, decide_eq_true_eq,
    List.contains_iff_mem, not_and_or, Nat.not_le, BitVec.ofNat_eq_ofNat]
  tauto

/-- A word that does not decode is on the list of R100. -/
theorem illegalWord_of_decode_error {c : Word} {e : Illegal} (h : decode c = .error e) :
    illegalWord c = true := by
  rw [illegalWord_iff_fields]
  unfold decode at h
  split at h
  · next hr => exact .inl hr
  split at h
  · next ho => simp [ho, decodePlain_error h]
  split at h
  · next ho => simp [ho, -not_and, decodeInit_error h]
  split at h
  · next ho => exact .inr (.inr (.inr (.inr (.inr ⟨by rw [ho]; rfl, decodeAbsorb_error h⟩))))
  split at h
  · next ho => simp [ho, decodePlain_error h]
  split at h
  · next ho => simp [ho, decodePlain_error h]
  split at h
  · next ho => simp [ho, decodePlain_error h]
  · bv_omega

/-- A word that decodes is not on the list of R100. -/
theorem illegalWord_eq_false_of_decode {c : Word} {i : Instr} (h : decode c = .ok i) :
    illegalWord c = false := by
  rw [← encode_of_decode h]
  exact illegalWord_encode (decode_ok_fields h).1

/-- ABSORB and FINAL are the legal words with OP 0x02 and 0x03 (R95, R96). -/
theorem needsInit_iff_op {c : Word} {i : Instr} (h : decode c = .ok i) :
    needsInit i = true ↔ c.extractLsb' 0 8 = 0x02#8 ∨ c.extractLsb' 0 8 = 0x03#8 := by
  have hop : c.extractLsb' 0 8 = i.op := (decode_ok_fields h).2.2.1.symm
  rw [hop]
  cases i <;> simp [needsInit, Instr.op]

end Machine
end Sys2Proof

namespace Sys2Proof.Machine

/-! ### One access to one register (20_memory.md R61, R65) -/

/-- An exact read (R51): the word delivered is the register's value, and no free value is drawn. -/
theorem step_reads_register {s : State} {a : Offset} {r : Reg} (h : HostReads s a)
    (hr : regAt a = some r) (hx : s.blk.busy = false ∨ r.busyFree = false) :
    step s = .next { hostTaken s with received := regValue s.blk r :: s.received } := by
  have hf : readIsFree (hostTaken s).blk a = false := by
    rcases hx with hx | hx <;> simp [readIsFree, hr, hx]
  have hv : readValue (hostTaken s) a = regValue s.blk r := by
    rw [readValue, hf, hr]
    rfl
  rw [step_hostReads h, hostRead, hf, hv]
  rfl

/-- A write to a register other than CMD. -/
theorem step_writes_register {s : State} {a : Offset} {d : Word} {r : Reg} (h : HostWrites s a d)
    (hr : regAt a = some r) (hc : r ≠ .cmd) :
    step s = .next { hostTaken s with blk := writeReg r d s.blk } := by
  rw [step_hostWrites h, hostWrite, hr]
  cases r <;> simp_all

/-- A write to a register whose write does nothing (R31): only the access is gone. -/
theorem step_ignores_write {s : State} {a : Offset} {d : Word} {r : Reg} (h : HostWrites s a d)
    (hr : regAt a = some r) (hc : r ≠ .cmd) (hw : writeReg r d s.blk = s.blk) :
    step s = .next (hostTaken s) := by
  rw [step_writes_register h hr hc, hw]
  rfl

/-- A write to CMD. -/
theorem step_writes_cmd {s : State} {a : Offset} {c : Word} (h : HostWrites s a c)
    (hr : regAt a = some .cmd) : step s = cmdWrite c (hostTaken s) := by
  rw [step_hostWrites h, hostWrite, hr]

/-- A write to a reserved offset (R50). -/
theorem step_writes_reserved {s : State} {a : Offset} {d : Word} (h : HostWrites s a d)
    (hr : regAt a = none) : step s = .next (hostTaken s) := by
  rw [step_hostWrites h, hostWrite, hr]

/-- The step makes one write at most. -/
theorem hostWrites_unique {s : State} {a a' : Offset} {d d' : Word} (h : HostWrites s a d)
    (h' : HostWrites s a' d') : a = a' ∧ d = d' := by
  simpa using h.2.symm.trans h'.2

/-- A step of the host's is no step of the engine's. -/
theorem not_completes_of_hostWrites {s : State} {a : Offset} {d : Word} {i : Instr}
    (h : HostWrites s a d) : ¬Completes s i := by
  intro hc
  have := h.1.2.symm.trans hc.1.2
  simp at this

/-! ### A rejected write (60_exceptions.md R200 to R207) -/

/-- R205 and R207: the one flag, the capture, and nothing else. -/
theorem raiseErr_eq (k : ErrKind) (off : Offset) (d : Word) (b : Block) :
    raiseErr k off d b = { b with
      errAddr := if anyErr b then b.errAddr else off
      errData := if anyErr b then b.errData else d
      errBusy := b.errBusy || decide (k = .busy)
      errCmd := b.errCmd || decide (k = .cmd)
      errSeq := b.errSeq || decide (k = .seq)
      errCount := b.errCount || decide (k = .count) } := by
  unfold raiseErr
  cases k <;> split <;> simp [setErrFlag]

/-- A rejection raises its own flag and leaves the other three. -/
theorem errFlag_raiseErr (j k : ErrKind) (off : Offset) (d : Word) (b : Block) :
    errFlag j (raiseErr k off d b) = (errFlag j b || decide (k = j)) := by
  cases j <;> simp [errFlag]

/-- A write to a register other than CMD that is rejected raises its cause at the register's offset. -/
theorem writeReg_rejected {b : Block} {a : Offset} {d : Word} {r : Reg} {k : ErrKind}
    (hr : regAt a = some r) (hc : r ≠ .cmd) (hk : rejection b a d = some k) :
    writeReg r d b = raiseErr k r.offset d b := by
  unfold rejection at hk
  rw [hr] at hk
  cases r <;> simp at hk hc
  case count => cases hb : b.busy <;> simp_all [writeReg, writeCount]
  case state j => simp [writeReg, writeState, hk]
  case buf j => simp [writeReg, writeBuf, hk]

/-- CMD's acceptance checks, in R206's order, are the causes of `rejection`. -/
theorem cmd_rejection_of_decode {b : Block} {a : Offset} {c : Word} {i : Instr}
    (hr : regAt a = some .cmd) (hi : decode c = .ok i) (hs : i ≠ .sreset) :
    rejection b a c = if b.busy then some .busy else if needsInit i && !b.inited then some .seq else none := by
  have hc : c ≠ 0x0000000F#32 := fun h => by
    rw [decode_eq_sreset_iff.mpr h] at hi; exact hs (Except.ok.inj hi).symm
  have hill := illegalWord_eq_false_of_decode hi
  have hop := needsInit_iff_op hi
  simp [rejection, hr, hc, hill, ← hop]

/-- An illegal word is rejected for ERR_BUSY while busy, else for ERR_CMD (R206). -/
theorem cmd_rejection_of_decode_error {b : Block} {a : Offset} {c : Word} {e : Illegal}
    (hr : regAt a = some .cmd) (he : decode c = .error e) :
    rejection b a c = some (if b.busy then .busy else .cmd) := by
  have hc : c ≠ 0x0000000F#32 := fun h => by
    rw [decode_eq_sreset_iff.mpr h] at he; cases he
  have hill := illegalWord_of_decode_error he
  cases hb : b.busy <;> simp [rejection, hr, hc, hb, hill]

/-- A write to CMD of a legal word other than SRESET: rejected for its cause, or accepted. -/
theorem step_issues {s : State} {a : Offset} {c : Word} {i : Instr} (h : HostWrites s a c)
    (hr : regAt a = some .cmd) (hi : decode c = .ok i) (hs : i ≠ .sreset) :
    step s = .next { hostTaken s with
      blk := (rejection s.blk a c).elim (acceptCmd i s.blk) fun k => raiseErr k Reg.cmd.offset c s.blk } := by
  have hw : i.wf = true := (decode_ok_fields hi).1
  rw [step_writes_cmd h hr, cmdWrite, hi]
  dsimp only
  rw [exec_host hs (hostTaken_actor s), issue, cmd_rejection_of_decode hr hi hs, encode_of_decode hi, hw,
    hostTaken_blk]
  cases s.blk.busy <;> cases needsInit i <;> cases s.blk.inited <;> rfl

/-- A write to CMD of an illegal word. -/
theorem step_writes_illegal {s : State} {a : Offset} {c : Word} {e : Illegal} (h : HostWrites s a c)
    (hr : regAt a = some .cmd) (he : decode c = .error e) :
    step s = .next { hostTaken s with
      blk := raiseErr (if s.blk.busy then .busy else .cmd) Reg.cmd.offset c s.blk } := by
  rw [step_writes_cmd h hr, cmdWrite, he]
  rfl

/-- A write to CMD of SRESET's word (R98, 43_facade.md R180). -/
theorem step_writes_sreset {s : State} {a : Offset} (h : HostWrites s a 0x0000000F#32)
    (hr : regAt a = some .cmd) : step s = .next (softReset (hostTaken s)) := by
  rw [step_writes_cmd h hr]
  rfl

/-- Every rejected write raises its cause at its register's offset, and its access is gone. -/
theorem step_rejected {s : State} {a : Offset} {d : Word} {k : ErrKind} (h : HostWrites s a d)
    (hk : rejection s.blk a d = some k) :
    ∃ r, regAt a = some r ∧
      step s = .next { hostTaken s with blk := raiseErr k r.offset d s.blk } := by
  cases hr : regAt a with
  | none => simp [rejection, hr] at hk
  | some r =>
    refine ⟨r, rfl, ?_⟩
    by_cases hc : r = .cmd
    · subst hc
      cases hi : decode d with
      | error e =>
        rw [cmd_rejection_of_decode_error hr hi, Option.some.injEq] at hk
        rw [step_writes_illegal h hr hi, hk]
      | ok i =>
        have hs : i ≠ .sreset := by
          rintro rfl
          simp [rejection, hr, decode_eq_sreset_iff.mp hi] at hk
        rw [step_issues h hr hi hs, hk]
        rfl
    · rw [step_writes_register h hr hc, writeReg_rejected hr hc hk]

/-! ### The constants, and the registers that follow from V (10_state.md R32, R33, R44) -/

/-- PARAMS field by field (R33): ROUNDS_PER_CYCLE is at most 24 and stays inside its byte. -/
theorem paramsWord_fields :
    (paramsWord.extractLsb' 0 8).toNat = Config.roundsPerCycle ∧ paramsWord.extractLsb' 8 8 = 0x18#8 ∧
      paramsWord.extractLsb' 16 8 = 0x40#8 ∧ paramsWord.extractLsb' 24 8 = 0#8 := by
  have hall : ∀ p : Fin 24, let w := 0x00401800#32 ||| BitVec.ofNat 32 (p.val + 1)
      (w.extractLsb' 0 8).toNat = p.val + 1 ∧ w.extractLsb' 8 8 = 0x18#8 ∧
        w.extractLsb' 16 8 = 0x40#8 ∧ w.extractLsb' 24 8 = 0#8 := by decide
  exact hall Config.roundsPerCyclePred

/-- Settles O23: the exact reads and the ignored writes of ID and PARAMS. -/
theorem idAndParams : Obligations.IdAndParams := by
  unfold Obligations.IdAndParams
  refine ⟨Nat.succ_pos _, Config.roundsPerCyclePred.isLt, fun s a => ⟨fun hr h => ?_, fun hr h => ?_, ?_⟩⟩
  · exact step_reads_register h hr (.inr rfl)
  · exact ⟨paramsWord, step_reads_register h hr (.inr rfl), paramsWord_fields⟩
  · rintro (hr | hr) d h
    · exact step_ignores_write h hr (by decide) rfl
    · exact step_ignores_write h hr (by decide) rfl

/-- An output that fits one block is read out of W in one pass of Squeeze (42_sponge.md R153, R155). -/
theorem squeeze_of_le {out r : Nat} (h : out ≤ r) (W : Bytes 200) :
    squeeze W out r = W.toList.take out := by
  simp [squeeze, squeezeLoop, Nat.min_eq_left h]

/-- No digest is longer than its variant's block, nor than the state (00_scope.md R3). -/
theorem outLen_le (V : Variant) : outLen V ≤ rb V ∧ outLen V ≤ 200 := by
  cases V <;> decide

/-- A digest has outputLength(V) bytes. -/
theorem finalize_length (S : Bytes 200) (B : Bytes 144) (n : Nat) (V : Variant) (P : PadMode) :
    (finalize S B n V P).length = outLen V := by
  obtain ⟨hrb, h200⟩ := outLen_le V
  rw [finalize, squeeze_of_le hrb, List.length_take, Vector.length_toList, Nat.min_eq_left h200]

/-- Two characters for each byte (43_facade.md R186). -/
theorem hexDigest_length (m : List Byte) : (hexDigest m).length = 2 * m.length := by
  simp [hexDigest, List.length_flatMap, Nat.mul_comm]

/-- The four metadata registers for each variant: the table of 00_scope.md R3. -/
theorem metadata_values (b : Block) :
    ((regValue b .digestSize).toNat, (regValue b .blockSize).toNat, (regValue b .rate).toNat,
      (regValue b .capacity).toNat) = (outLen b.V, rb b.V, rate b.V, capacity b.V) := by
  simp only [regValue]
  cases b.V <;> rfl

/-- The table's relations (43_facade.md R173). -/
theorem rate_relations (V : Variant) : rb V * 8 = rate V ∧ rate V + capacity V = 1600 := by
  cases V <;> decide

/-- Settles O26: the registers show the table of R3, and Squeeze gives outputLength bytes. -/
theorem metadata : Obligations.Metadata := by
  unfold Obligations.Metadata
  refine ⟨rfl, fun s a d r hm hr h => ?_, fun b => ?_⟩
  · simp only [List.mem_cons, List.not_mem_nil, or_false] at hm
    rcases hm with rfl | rfl | rfl | rfl <;> exact step_ignores_write h hr (by decide) rfl
  · have hv := metadata_values b
    simp only [Prod.mk.injEq] at hv
    obtain ⟨hd, hb, hr, hc⟩ := hv
    obtain ⟨h8, hsum⟩ := rate_relations b.V
    rw [hd, hb, hr, hc, hexDigest_length, finalize_length]
    exact ⟨by cases b.V <;> rfl, h8, hsum, rfl, rfl⟩

/-! ### IRQ_EN, DATA_IN and COUNT (10_state.md R41 to R43) -/

/-- Settles O28: an exact read, and a write to IRQ_EN at any time. -/
theorem irqEnRegister : Obligations.IrqEnRegister := by
  unfold Obligations.IrqEnRegister
  exact fun s a hr => ⟨fun h => step_reads_register h hr (.inr rfl),
    fun d h => step_writes_register h hr (by decide)⟩

/-- ABSORB's argument byte is NBYTES zero-extended (30_encoding.md R95). -/
theorem absorb_arg (k : BitVec 3) : (Instr.absorb k).arg = k.setWidth 8 := by
  revert k
  decide

/-- Settles O29: the accesses to DATA_IN, its capture by `acceptCmd`, and its bytes. -/
theorem dataInRegister : Obligations.DataInRegister := by
  unfold Obligations.DataInRegister
  refine ⟨fun s a hr => ⟨fun h => step_reads_register h hr (.inr rfl),
    fun d h => step_writes_register h hr (by decide)⟩, fun s k ha hb hi hk => ?_, fun k d => rfl⟩
  have hw : (Instr.absorb k).wf = true := by simpa [Instr.wf] using hk
  refine ⟨_, exec_host (by simp) ha, ?_⟩
  rw [issue_accepts hb hw fun _ => hi, ← absorb_arg]
  rfl

/-- Settles O30: the branches of a write to COUNT, in order. -/
theorem countRegister : Obligations.CountRegister := by
  unfold Obligations.CountRegister
  refine fun s a hr => ⟨fun h hb => step_reads_register h hr (.inl hb), fun d h => ?_⟩
  have hw : step s = .next { hostTaken s with blk := writeCount d s.blk } :=
    step_writes_register h hr (by decide)
  refine ⟨fun hb => ?_, fun hb hd => ?_, fun hb hd => ⟨d.setWidth 8, ?_, ?_⟩⟩
  · rw [hw, writeCount, if_pos hb]
    rfl
  · rw [hw, writeCount, if_neg (by simp [hb]), if_pos hd]
    rfl
  · have hrb : rb s.blk.V ≤ 144 := by cases s.blk.V <;> decide
    rw [BitVec.toNat_setWidth, Nat.mod_eq_of_lt (by omega)]
  · rw [hw, writeCount, if_neg (by simp [hb]), if_neg (by omega)]

/-! ### The windows of DG and S (10_state.md R47, R48) -/

/-- Settles O31: byte i of DG is byte i mod 4 of the word that starts at 4(i div 4). -/
theorem digestWindow : Obligations.DigestWindow := by
  unfold Obligations.DigestWindow
  refine ⟨fun s a j hr h hb => step_reads_register h hr (.inl hb), fun b i => ?_⟩
  have h := wordByte_le32 b.DG (4 * (i.val / 4)) (j := i.val % 4) (by omega)
  rw [Nat.div_add_mod, getD_vector, dif_pos i.isLt] at h
  exact h

/-- Lane (x, y) is the eight bytes of S from 8(x + 5y) (10_state.md R22). -/
theorem lane_lanesOf (S : Bytes 200) (x y : Fin 5) :
    lane (lanesOf S) x.val y.val = le64 S (8 * (x.val + 5 * y.val)) := by
  rw [lane, Nat.mod_eq_of_lt x.isLt, Nat.mod_eq_of_lt y.isLt, getD_vector, dif_pos (by omega), lanesOf,
    Vector.getElem_ofFn]

/-- Settles O32: the accesses by the register's write, and the two halves of `le64`. -/
theorem stateWindow : Obligations.StateWindow := by
  unfold Obligations.StateWindow
  refine ⟨fun s a j hr => ⟨fun h hb => step_reads_register h hr (.inl hb), fun d h => ?_⟩, fun b x y => ?_⟩
  · have hw := step_writes_register h hr (by simp)
    refine ⟨fun hb => ?_, fun hb => ⟨setLe32 s.blk.S (4 * j.val) d, ?_, setLe32_getElem _ _ d⟩⟩
    · rw [hw, writeReg, writeState, if_pos hb]
    · rw [hw, writeReg, writeState, if_neg (by simp [hb])]
  · rw [lane_lanesOf, le64_low, le64_high]
    exact ⟨congrArg (le32 b.S) (by dsimp only; omega), congrArg (le32 b.S) (by dsimp only; omega)⟩

/-! ### The error flags after an acceptance and after a reset (10_state.md R40) -/

@[simp] theorem errFlag_acceptCmd (k : ErrKind) (i : Instr) (b : Block) :
    errFlag k (acceptCmd i b) = errFlag k b := by
  cases k <;> rfl

@[simp] theorem errFlag_resetBlock (k : ErrKind) (j : Nat) : errFlag k (resetBlock j) = false := by
  cases k <;> rfl

/-! ### What a step does to the block -/

/-- What one step of the machine from `s` can leave as the block. -/
inductive StepEffect (s : State) : Block → Prop where
  /-- A read, a poll, an idle turn, or a write that does nothing. -/
  | kept : StepEffect s s.blk
  | rejected (a : Offset) (d : Word) (r : Reg) (k : ErrKind) (h : HostWrites s a d)
      (hk : rejection s.blk a d = some k) : StepEffect s (raiseErr k r.offset d s.blk)
  | wrote (a : Offset) (d : Word) (r : Reg) (h : HostWrites s a d) (hr : regAt a = some r)
      (hc : r ≠ .cmd) (hk : rejection s.blk a d = none) : StepEffect s (writeReg r d s.blk)
  | accepted (a : Offset) (d : Word) (i : Instr) (h : HostWrites s a d) (hr : regAt a = some .cmd) :
      StepEffect s (acceptCmd i s.blk)
  | completed (i : Instr) (data : Word) (h : Completes s i) (hs : i ≠ .sreset) :
      StepEffect s (finishCmd (effectOf i data (engineTaken s)).blk)
  | reset (k : Nat) (h : ResetsBlock s) : StepEffect s (resetBlock k)
  | poweredUp (h : nextTurn s = .powerCycle) : StepEffect s (powerUpBlock s.draws)

/-! ### Every step has one of the effects -/

/-- The effect of a host write. -/
theorem stepEffect_of_hostWrites {s t : State} {a : Offset} {d : Word} (h : HostWrites s a d)
    (ht : step s = .next t) : StepEffect s t.blk := by
  cases hk : rejection s.blk a d with
  | some k =>
    obtain ⟨r, -, he⟩ := step_rejected h hk
    cases he.symm.trans ht
    exact .rejected a d r k h hk
  | none =>
    cases hr : regAt a with
    | none => cases (step_writes_reserved h hr).symm.trans ht; exact .kept
    | some r =>
      by_cases hc : r = .cmd
      · subst hc
        cases hi : decode d with
        | error e => simp [cmd_rejection_of_decode_error hr hi] at hk
        | ok i =>
          by_cases hs : i = .sreset
          · subst hs
            obtain rfl := decode_eq_sreset_iff.mp hi
            cases (step_writes_sreset h hr).symm.trans ht
            exact .reset _ (.inr (.inr (.inr ⟨a, hr, h⟩)))
          · rw [step_issues h hr hi hs, hk] at ht
            cases ht
            exact .accepted a d i h hr
      · cases (step_writes_register h hr hc).symm.trans ht
        exact .wrote a d r h hr hc hk

/-- Every step that goes on has one of the effects. -/
theorem stepEffect_of_step {s t : State} (ht : step s = .next t) : StepEffect s t.blk := by
  rcases step_cases ht with ⟨-, -, rfl⟩ | ⟨a, -, rfl⟩ | ⟨a, d, h, -⟩ | ⟨rest, -, -, rfl⟩ | ⟨i, h, -⟩ |
    ⟨-, -, rfl⟩ | ⟨hn, rfl⟩ | ⟨hn, ⟨k, hk⟩, -⟩ | ⟨hn, rfl⟩
  · exact .kept
  · exact .kept
  · exact stepEffect_of_hostWrites h ht
  · rw [pollStatus_blk]; exact .kept
  · obtain ⟨p, -, -, hs, he⟩ := completes_next h
    cases he.symm.trans ht
    exact .completed i p.data h hs
  · exact .kept
  · exact .reset _ (.inl hn)
  · rw [hk]; exact .reset k (.inr (.inl hn))
  · exact .poweredUp hn

/-! ### The error flags (10_state.md R40) -/

/-- The bit of STATUS that shows an error flag (R35). -/
def errBit : ErrKind → Nat
  | .busy => 8
  | .cmd => 9
  | .seq => 10
  | .count => 11

theorem errFlag_clearFlags (k : ErrKind) (d : Word) (b : Block) :
    errFlag k (clearFlags d b) = (errFlag k b && !d.getLsbD (errBit k)) := by
  cases k <;> rfl

/-- The effect of a command with a completion leaves the error flags. -/
theorem errFlag_effectOf (k : ErrKind) {i : Instr} (hs : i ≠ .sreset) (data : Word) (s : State) :
    errFlag k (effectOf i data s).blk = errFlag k s.blk := by
  cases i with
  | nop => rfl
  | init v p => cases k <;> rfl
  | absorb m => cases k <;> simp [errFlag, effectOf, absorbEffect]
  | final => cases k <;> simp [errFlag, effectOf, finalEffect]
  | permute => cases k <;> simp [errFlag, effectOf, permuteEffect]
  | sreset => exact absurd rfl hs

/-- A completion leaves the error flags. -/
theorem errFlag_completed (k : ErrKind) {i : Instr} (hs : i ≠ .sreset) (data : Word) (s : State) :
    errFlag k (finishCmd (effectOf i data s).blk) = errFlag k s.blk := by
  rw [← errFlag_effectOf k hs data s]
  cases k <;> rfl

/-- A write that is not rejected changes no error flag, but that STATUS clears those written as 1. -/
theorem errFlag_writeReg (k : ErrKind) {b : Block} {a : Offset} {d : Word} {r : Reg}
    (hr : regAt a = some r) (hk : rejection b a d = none) :
    errFlag k (writeReg r d b) = (errFlag k b && !(decide (r = .status) && d.getLsbD (errBit k))) := by
  cases r
  case status => simp [writeReg, errFlag_clearFlags]
  case count =>
    have hb : b.busy = false := by
      by_contra hb
      simp [rejection, hr, Bool.eq_true_of_not_eq_false hb] at hk
    have hd : d.toNat < rb b.V := by simpa [rejection, hr, hb] using hk
    cases k <;> simp [writeReg, writeCount, hb, Nat.not_le.mpr hd, errFlag]
  case state j =>
    have hb : b.busy = false := by simpa [rejection, hr] using hk
    cases k <;> simp [writeReg, writeState, hb, errFlag]
  case buf j =>
    have hb : b.busy = false := by simpa [rejection, hr] using hk
    cases k <;> simp [writeReg, writeBuf, hb, errFlag]
  all_goals cases k <;> simp [writeReg, errFlag]

/-- What can set an error flag. -/
theorem StepEffect.errFlag_rises {s : State} {b : Block} {k : ErrKind} (he : StepEffect s b)
    (h0 : errFlag k s.blk = false) (h1 : errFlag k b = true) :
    nextTurn s = .powerCycle ∨ ∃ a d, HostWrites s a d ∧ rejection s.blk a d = some k := by
  cases he with
  | kept => simp [h0] at h1
  | rejected a d r j h hk =>
    have hj : j = k := by simpa [errFlag_raiseErr, h0] using h1
    exact .inr ⟨a, d, h, hj ▸ hk⟩
  | wrote a d r h hr hc hk => simp [errFlag_writeReg k hr hk, h0] at h1
  | accepted => simp [h0] at h1
  | completed i data h hs => simp [errFlag_completed k hs, h0] at h1
  | reset j => simp at h1
  | poweredUp h => exact .inl h

/-- What can clear an error flag. -/
theorem StepEffect.errFlag_falls {s : State} {b : Block} {k : ErrKind} (he : StepEffect s b)
    (h1 : errFlag k s.blk = true) (h0 : errFlag k b = false) :
    ResetsBlock s ∨
      ∃ a d, HostWrites s a d ∧ regAt a = some .status ∧ d.getLsbD (errBit k) = true := by
  cases he with
  | kept => simp [h1] at h0
  | rejected a d r j h hk => simp [errFlag_raiseErr, h1] at h0
  | wrote a d r h hr hc hk =>
    obtain ⟨rfl, hd⟩ : r = .status ∧ d.getLsbD (errBit k) = true := by
      simpa [errFlag_writeReg k hr hk, h1] using h0
    exact .inr ⟨a, d, h, hr, hd⟩
  | accepted => simp [h1] at h0
  | completed i data h hs => simp [errFlag_completed k hs, h1] at h0
  | reset j h => exact .inl h
  | poweredUp h => exact .inl (.inr (.inr (.inl h)))

/-- Settles O16: the effects of a step, one by one, from `StepEffect`. -/
theorem errorFlagsAreSticky : Obligations.ErrorFlagsAreSticky := by
  unfold Obligations.ErrorFlagsAreSticky
  intro s t k ht
  have he := stepEffect_of_step ht
  refine ⟨fun h0 h1 hp => (he.errFlag_rises h0 h1).resolve_left hp, fun h1 h0 => ?_⟩
  cases k <;> exact he.errFlag_falls h1 h0

/-! ### DONE (10_state.md R39) -/

/-- Every completion sets DONE. -/
theorem completes_sets_done {s : State} {i : Instr} (h : Completes s i) :
    ∃ t, step s = .next t ∧ t.blk.done = true := by
  obtain ⟨p, -, -, -, he⟩ := completes_next h
  exact ⟨_, he, rfl⟩

/-- No write to a register sets DONE. -/
theorem done_of_writeReg {r : Reg} {d : Word} {b : Block} (h : (writeReg r d b).done = true) :
    b.done = true := by
  rcases writeReg_cases r d b with hw | ⟨-, hw⟩ | ⟨-, hw⟩ | ⟨-, hw⟩ | ⟨k, hw⟩ | ⟨-, -, -, hw⟩ |
    ⟨j, -, -, hw⟩ | ⟨j, -, -, hw⟩ <;> simp_all

/-- What can set DONE. -/
theorem StepEffect.done_rises {s : State} {b : Block} (he : StepEffect s b)
    (h0 : s.blk.done = false) (h1 : b.done = true) :
    nextTurn s = .powerCycle ∨ ∃ i, Completes s i := by
  cases he with
  | kept => simp [h0] at h1
  | rejected => simp [h0] at h1
  | wrote => simp [done_of_writeReg h1] at h0
  | accepted => simp [h0] at h1
  | completed i data h => exact .inr ⟨i, h⟩
  | reset => simp [Block.reset] at h1
  | poweredUp h => exact .inl h

/-- A write to STATUS clears the flags written as 1 (R31 W1C). -/
theorem step_writes_status {s : State} {a : Offset} {d : Word} (h : HostWrites s a d)
    (hr : regAt a = some .status) :
    step s = .next { hostTaken s with blk := clearFlags d s.blk } :=
  step_writes_register h hr (by decide)

/-- A reset edge, with or without an access, leaves a reset block (70_reset_and_hazards.md R230). -/
theorem resetEdge_blk {s t : State} (h : nextTurn s = .reset ∨ nextTurn s = .resetWithAccess)
    (ht : step s = .next t) : ∃ k, t.blk = resetBlock k := by
  rcases h with h | h
  · cases (step_reset h).symm.trans ht
    exact ⟨_, rfl⟩
  · exact (accessUnderReset_blk ((step_resetWithAccess h).symm.trans ht)).1

/-- A step that resets the block leaves a reset block, a power cycle apart. -/
theorem resetsBlock_blk {s t : State} (h : ResetsBlock s) (hp : nextTurn s ≠ .powerCycle)
    (ht : step s = .next t) : ∃ k, t.blk = resetBlock k := by
  rcases h with h | h | h | ⟨a, hr, h⟩
  · exact resetEdge_blk (.inl h) ht
  · exact resetEdge_blk (.inr h) ht
  · exact absurd h hp
  · cases (step_writes_sreset h hr).symm.trans ht
    exact ⟨_, rfl⟩

/-- Settles O17: DONE is set by completions alone; each clause from the step's value for its turn. -/
theorem doneFlag : Obligations.DoneFlag := by
  unfold Obligations.DoneFlag
  refine ⟨fun s i => completes_sets_done, fun s t ht => (stepEffect_of_step ht).done_rises, ?_, ?_, ?_, ?_⟩
  · intro s a d h k hk
    obtain ⟨r, -, he⟩ := step_rejected h hk
    exact ⟨_, he, raiseErr_done ..⟩
  · intro s a h hr
    exact ⟨_, step_writes_sreset h hr, rfl⟩
  · intro s t h ht
    obtain ⟨k, hk⟩ := resetEdge_blk h ht
    rw [hk, resetBlock_done]
    rfl
  · intro s a d h hr hd
    exact ⟨_, step_writes_status h hr, by simp [hd], fun i hi => completes_sets_done hi⟩

/-! ### VARIANT, PADMODE and INITED (10_state.md R23, R26, R45) -/

/-- No write to a register changes V, P or INITED. -/
theorem writeReg_keeps_mode (r : Reg) (d : Word) (b : Block) :
    (writeReg r d b).V = b.V ∧ (writeReg r d b).P = b.P ∧ (writeReg r d b).inited = b.inited := by
  rcases writeReg_cases r d b with hw | ⟨-, hw⟩ | ⟨-, hw⟩ | ⟨-, hw⟩ | ⟨k, hw⟩ | ⟨-, -, -, hw⟩ |
    ⟨j, -, -, hw⟩ | ⟨j, -, -, hw⟩ <;> simp [hw]

/-- Of the commands with a completion, only INIT changes V, P or INITED. -/
theorem effectOf_keeps_mode {i : Instr} (hs : i ≠ .sreset) (hi : ∀ v p, i ≠ .init v p) (data : Word)
    (s : State) : (effectOf i data s).blk.V = s.blk.V ∧ (effectOf i data s).blk.P = s.blk.P ∧
      (effectOf i data s).blk.inited = s.blk.inited := by
  cases i with
  | nop => exact ⟨rfl, rfl, rfl⟩
  | init v p => exact absurd rfl (hi v p)
  | absorb m => simp [effectOf, absorbEffect]
  | final => simp [effectOf, finalEffect]
  | permute => simp [effectOf, permuteEffect]
  | sreset => exact absurd rfl hs

/-- What a step does to V, P and INITED together: nothing, unless it is a reset or an INIT's completion. -/
theorem StepEffect.mode_cases {s : State} {b : Block} (he : StepEffect s b) :
    (b.V = s.blk.V ∧ b.P = s.blk.P ∧ b.inited = s.blk.inited) ∨ ResetsBlock s ∨
      ∃ v p, Completes s (.init v p) ∧ b.V = v ∧ b.P = p ∧ b.inited = true := by
  cases he with
  | kept => simp
  | rejected => simp
  | wrote => exact .inl (writeReg_keeps_mode ..)
  | accepted => simp
  | completed i data h hs =>
    by_cases hi : ∃ v p, i = .init v p
    · obtain ⟨v, p, rfl⟩ := hi
      exact .inr (.inr ⟨v, p, h, rfl, rfl, rfl⟩)
    · exact .inl (effectOf_keeps_mode hs (by simpa using hi) data (engineTaken s))
  | reset k h => exact .inr (.inl h)
  | poweredUp h => exact .inr (.inl (.inr (.inr (.inl h))))

/-- Every bit of MODE: VARIANT's two, and PADMODE at bit 4 (R45). -/
theorem modeWord_getLsbD (b : Block) (i : Nat) : (modeWord b).getLsbD i =
    (b.V.code.getLsbD i || (decide (4 ≤ i) && b.P.bit.getLsbD (i - 4))) := by
  by_cases h : i < 32
  · by_cases h4 : 4 ≤ i
    · simp [modeWord, h, h4, Nat.not_lt.mpr h4]
    · simp [modeWord, h, h4, Nat.not_le.mp h4]
  · rw [BitVec.getLsbD_of_ge _ _ (by omega), BitVec.getLsbD_of_ge _ _ (by omega),
      BitVec.getLsbD_of_ge _ _ (by omega)]
    simp

/-- The fields of MODE (R45). -/
theorem modeWord_fields (b : Block) :
    (modeWord b).extractLsb' 0 2 = b.V.code ∧ (modeWord b).extractLsb' 4 1 = b.P.bit := by
  unfold modeWord
  cases b.V <;> cases b.P <;> decide

/-- Settles O27: MODE bit by bit, and `StepEffect.mode_cases` for the writers of V and P. -/
theorem modeAndItsWriters : Obligations.ModeAndItsWriters := by
  unfold Obligations.ModeAndItsWriters
  refine ⟨fun b => ⟨(modeWord_fields b).1, (modeWord_fields b).2, fun i h0 h1 h4 => ?_⟩, ?_, ?_⟩
  · rw [show regValue b .mode = modeWord b from rfl, modeWord_getLsbD,
      BitVec.getLsbD_of_ge _ i (by omega)]
    by_cases h : 4 ≤ i
    · rw [BitVec.getLsbD_of_ge _ (i - 4) (by omega)]; simp
    · simp [h]
  · intro s a d hr h
    exact step_ignores_write h hr (by decide) rfl
  · intro s t ht hne
    rcases (stepEffect_of_step ht).mode_cases with ⟨hV, hP, -⟩ | hres | ⟨v, p, hc, hV, hP, -⟩
    · simp [hV, hP] at hne
    · exact .inl hres
    · exact .inr ⟨v, p, hc, hV, hP⟩

/-- Settles O41: `StepEffect.mode_cases` for the steps, and R206's order of the causes for the rejection. -/
theorem initedRule : Obligations.InitedRule := by
  unfold Obligations.InitedRule
  refine ⟨fun s t ht hp => ⟨fun hres => ?_, fun v p hc => ?_, fun hne => ?_⟩, fun s i ha h0 hq => ?_⟩
  · obtain ⟨k, hk⟩ := resetsBlock_blk hres hp ht
    rw [hk]
    rfl
  · obtain ⟨p', -, -, -, he⟩ := completes_next hc
    cases he.symm.trans ht
    rfl
  · rcases (stepEffect_of_step ht).mode_cases with ⟨-, -, h⟩ | hres | ⟨v, p, hc, -⟩
    · exact absurd h hne
    · exact .inl hres
    · exact .inr ⟨v, p, hc⟩
  · have hs : i ≠ .sreset := by rintro rfl; cases hq
    rw [exec_host hs ha, hq]
    show Host.Outcome.next { s with blk := (issue true i s).blk } = _
    rcases issue_blk_cases true i s with ⟨hb, h⟩ | ⟨hb, hw, h⟩ | ⟨hb, hw, -, -, h⟩ | ⟨-, -, hi, -⟩
    · simp [h, raiseErr_eq, hb]
    · simp [h, raiseErr_eq, hb, hw]
    · simp [h, raiseErr_eq, hb, hw]
    · simp [hi rfl] at h0

/-! ### What an accepted command leaves until its completion (10_state.md R52) -/

/-- Two blocks with the same S, B, n, V, P, INITED, DV and DG. -/
structure SameContent (b b' : Block) : Prop where
  S : b'.S = b.S
  B : b'.B = b.B
  n : b'.n = b.n
  V : b'.V = b.V
  P : b'.P = b.P
  inited : b'.inited = b.inited
  DV : b'.DV = b.DV
  DG : b'.DG = b.DG

theorem flagAt_getLsbD (x : Bool) {k i : Nat} (hi : i < 32) :
    (flagAt x k).getLsbD i = (x && decide (i = k)) := by
  cases x
  · simp [flagAt]
  · simp only [flagAt, if_true, BitVec.getLsbD_shiftLeft, hi, decide_true, Bool.true_and,
      BitVec.getLsbD_one]
    by_cases h : i = k
    · simp [h]
    · simp [h]
      omega

/-- STATUS bits 2:1 are DV and INITED (R35). -/
theorem statusWord_DV_inited (b : Block) :
    (statusWord b).extractLsb' 1 2 = BitVec.ofBool b.DV ++ BitVec.ofBool b.inited := by
  apply BitVec.eq_of_getLsbD_eq
  intro i hi
  simp only [statusWord, BitVec.getLsbD_extractLsb', BitVec.getLsbD_or, BitVec.getLsbD_append,
    flagAt_getLsbD _ (show 1 + i < 32 by omega)]
  have h : i = 0 ∨ i = 1 := by omega
  rcases h with rfl | rfl <;> simp

/-- A write to a register while busy changes none of the content: COUNT, STATE and BUF reject it. -/
theorem writeReg_sameContent {b : Block} (hb : b.busy = true) (r : Reg) (d : Word) :
    SameContent b (writeReg r d b) := by
  rcases writeReg_cases r d b with hw | ⟨-, hw⟩ | ⟨-, hw⟩ | ⟨-, hw⟩ | ⟨k, hw⟩ | h | h | h
  rotate_right 3
  · simp [hb] at h
  · simp [hb] at h
  · simp [hb] at h
  all_goals rw [hw]; constructor <;> simp

/-- While a command is pending no step but its completion or a reset changes the content, and no CMD write
but SRESET's does. -/
theorem StepEffect.sameContent {s : State} {b : Block} (he : StepEffect s b) (hres : ¬ResetsBlock s)
    (h : (s.blk.busy = true ∧ ∀ i, ¬Completes s i) ∨ ∃ a d, HostWrites s a d ∧ regAt a = some .cmd) :
    SameContent s.blk b := by
  cases he with
  | kept => constructor <;> rfl
  | rejected => constructor <;> simp
  | wrote a d r hw hr hc =>
    rcases h with ⟨hb, -⟩ | ⟨a', d', hw', hr'⟩
    · exact writeReg_sameContent hb r d
    · obtain ⟨rfl, -⟩ := hostWrites_unique hw hw'
      exact absurd (Option.some.inj (hr.symm.trans hr')) hc
  | accepted => constructor <;> simp
  | completed i data hc =>
    rcases h with ⟨-, hn⟩ | ⟨a, d, hw, -⟩
    · exact absurd hc (hn i)
    · exact absurd hc (not_completes_of_hostWrites hw)
  | reset k h => exact absurd h hres
  | poweredUp h => exact absurd (.inr (.inr (.inl h))) hres

/-- Settles O38: the content by `StepEffect.sameContent`, and the registers as functions of it. -/
theorem effectsOnlyAtCompletion : Obligations.EffectsOnlyAtCompletion := by
  unfold Obligations.EffectsOnlyAtCompletion
  intro s t ht hres h
  obtain ⟨hS, hB, hn, hV, hP, hi, hDV, hDG⟩ := (stepEffect_of_step ht).sameContent hres h
  refine ⟨hS, hB, hn, hV, hP, hi, hDV, hDG, ?_, ?_, ?_, ?_, ?_, ?_⟩
  · simp only [regValue, modeWord, hV, hP]
  · simp only [regValue, hV]
  · simp only [regValue, hV]
  · simp only [regValue, hV]
  · simp only [regValue, hV]
  · simp only [regValue, statusWord_DV_inited, hDV, hi]

/-! ### The buffer beyond the block size (10_state.md R49) -/

/-- Two blocks that agree in S, n, V, P and the first rb bytes of B: what a hash reads of them. -/
structure SameBelowRate (b b' : Block) : Prop where
  S : b'.S = b.S
  n : b'.n = b.n
  V : b'.V = b.V
  P : b'.P = b.P
  B : ∀ i < rb b.V, b'.B.getD i 0 = b.B.getD i 0

theorem firstBytes_congr {r : Nat} {B B' : Bytes 144} (h : ∀ i < r, B'.getD i 0 = B.getD i 0) :
    firstBytes r B' = firstBytes r B := by
  apply Vector.ext
  intro i hi
  simpa [firstBytes] using h i hi

theorem padBlock_congr {r : Nat} {B B' : Bytes 144} (n : Nat) (P : PadMode)
    (h : ∀ i < r, B'.getD i 0 = B.getD i 0) : padBlock B' n P r = padBlock B n P r := by
  apply Vector.ext
  intro i hi
  rw [padBlock, padBlock, Vector.getElem_ofFn, Vector.getElem_ofFn, padByte, padByte, h i hi]

/-- Storing a byte of the message keeps two buffers in agreement. -/
theorem setIfInBounds_getD_congr {B B' : Bytes 144} {i : Nat} (n : Nat) (x : Byte)
    (h : B'.getD i 0 = B.getD i 0) :
    (B'.setIfInBounds n x).getD i 0 = (B.setIfInBounds n x).getD i 0 := by
  rw [getD_vector, getD_vector] at h ⊢
  by_cases hi : i < 144
  · simp_all [Vector.getElem_setIfInBounds]
  · simp [hi]

theorem SameBelowRate.absorbByte {b b' : Block} (h : SameBelowRate b b') (x : Byte) :
    SameBelowRate (absorbByte b x) (absorbByte b' x) := by
  obtain ⟨hS, hn, hV, hP, hB⟩ := h
  have hB' : ∀ i < rb b.V, (b'.B.setIfInBounds b.n.toNat x).getD i 0 =
      (b.B.setIfInBounds b.n.toNat x).getD i 0 := fun i hi => setIfInBounds_getD_congr _ _ (hB i hi)
  unfold Machine.absorbByte
  simp only [hn, hV, hS]
  by_cases hf : (b.n + 1).toNat = rb b.V
  · rw [if_pos hf, if_pos hf]
    refine ⟨?_, rfl, rfl, hP, fun _ _ => rfl⟩
    dsimp only
    rw [hV, firstBytes_congr hB']
  · rw [if_neg hf, if_neg hf]
    exact ⟨rfl, rfl, rfl, hP, hB'⟩

theorem SameBelowRate.absorbBytes {b b' : Block} (h : SameBelowRate b b') (m : List Byte) :
    SameBelowRate (absorbBytes b m) (absorbBytes b' m) := by
  induction m generalizing b b' with
  | nil => exact h
  | cons x m ih => exact ih (h.absorbByte x)

theorem SameBelowRate.finalize_eq {b b' : Block} (h : SameBelowRate b b') :
    finalize b'.S b'.B b'.n.toNat b'.V b'.P = finalize b.S b.B b.n.toNat b.V b.P := by
  obtain ⟨hS, hn, hV, hP, hB⟩ := h
  rw [finalize, finalize, hS, hn, hV, hP, padBlock_congr _ _ hB]

/-- A word of BUF at or above rb lies outside what a hash reads. -/
theorem sameBelowRate_setLe32 (b : Block) {j : Nat} (d : Word) (hj : rb b.V / 4 ≤ j) :
    SameBelowRate b { b with B := setLe32 b.B (4 * j) d } := by
  refine ⟨rfl, rfl, rfl, rfl, fun i hi => ?_⟩
  have h4 : rb b.V % 4 = 0 := by cases b.V <;> rfl
  rw [setLe32_getD, if_neg (by omega)]

/-- Settles O33: the accesses by the register's write, and the hashes by `SameBelowRate`. -/
theorem bufWindow : Obligations.BufWindow := by
  unfold Obligations.BufWindow
  refine ⟨fun s a j hr => ⟨fun h hb => step_reads_register h hr (.inl hb), fun d h => ?_⟩,
    fun b j d more _ hj => ((sameBelowRate_setLe32 b d hj).absorbBytes more).finalize_eq⟩
  have hw := step_writes_register h hr (by simp)
  refine ⟨fun hb => ?_, fun hb => ⟨setLe32 s.blk.B (4 * j.val) d, ?_, setLe32_getElem _ _ d⟩⟩
  · rw [hw, writeReg, writeBuf, if_pos hb]
  · rw [hw, writeReg, writeBuf, if_neg (by simp [hb])]

end Sys2Proof.Machine
end

section

/-! The decoding of addresses (20_memory.md R60, R63; 10_state.md R50): an address reaches the register whose
offset is the address with its two low bits cleared, and no register lies in the four reserved ranges. -/

namespace Sys2Proof.Machine

/-! ### Offsets and word numbers (10_state.md R30) -/

/-- The word number of an address, addr[11:2]. -/
theorem extractLsb'_addr_toNat (addr : Offset) : (addr.extractLsb' 2 10).toNat = addr.toNat / 4 := by
  rw [BitVec.extractLsb'_toNat, Nat.shiftRight_eq_div_pow]
  omega

/-- The offset of `addr` is four times its word number (R63). -/
theorem alignOffset_toNat (addr : Offset) :
    (alignOffset addr).toNat = 4 * (addr.extractLsb' 2 10).toNat := by
  rw [alignOffset, BitVec.toNat_append, BitVec.toNat_ofNat, Nat.zero_mod, Nat.or_zero, Nat.shiftLeft_eq,
    Nat.mul_comm]

theorem digest_offset_toNat (j : Fin 16) : (Reg.digest j).offset.toNat = 4 * (0x010 + j.val) :=
  (Nat.mod_eq_of_lt (by omega)).trans (Nat.mul_add 4 0x010 j.val).symm

theorem state_offset_toNat (j : Fin 50) : (Reg.state j).offset.toNat = 4 * (0x040 + j.val) :=
  (Nat.mod_eq_of_lt (by omega)).trans (Nat.mul_add 4 0x040 j.val).symm

theorem buf_offset_toNat (j : Fin 36) : (Reg.buf j).offset.toNat = 4 * (0x080 + j.val) :=
  (Nat.mod_eq_of_lt (by omega)).trans (Nat.mul_add 4 0x080 j.val).symm

/-! ### The register at a word number -/

theorem regAtWord_digest (j : Fin 16) : regAtWord (0x010 + j.val) = some (.digest j) := by
  rw [regAtWord, if_pos (by omega), Nat.add_sub_cancel_left, Fin.ofNat_val_eq_self]

theorem regAtWord_state (j : Fin 50) : regAtWord (0x040 + j.val) = some (.state j) := by
  rw [regAtWord, if_neg (by omega), if_pos (by omega), Nat.add_sub_cancel_left, Fin.ofNat_val_eq_self]

theorem regAtWord_buf (j : Fin 36) : regAtWord (0x080 + j.val) = some (.buf j) := by
  rw [regAtWord, if_neg (by omega), if_neg (by omega), if_pos (by omega), Nat.add_sub_cancel_left,
    Fin.ofNat_val_eq_self]

/-- The single registers, from ID to ERR_DATA, fill the word numbers below 14. -/
theorem regAtWord_of_lt {w : Nat} (hw : w < 14) : ∃ r, regAtWord w = some r ∧ r.offset.toNat = 4 * w := by
  interval_cases w <;> exact ⟨_, rfl, rfl⟩

/-- The word numbers of no register (R50). -/
def ReservedWord (w : Nat) : Prop :=
  (0x00E ≤ w ∧ w < 0x010) ∨ (0x020 ≤ w ∧ w < 0x040) ∨ (0x072 ≤ w ∧ w < 0x080) ∨ 0x0A4 ≤ w

theorem regAtWord_of_reserved {w : Nat} (h : ReservedWord w) : regAtWord w = none := by
  unfold ReservedWord at h
  rw [regAtWord, if_neg (by omega), if_neg (by omega), if_neg (by omega), List.getElem?_eq_none]
  simp only [List.length_cons, List.length_nil]
  omega

/-- A word number that is not reserved is a register's, which lies at four times that number. -/
theorem regAtWord_of_not_reserved {w : Nat} (h : ¬ReservedWord w) :
    ∃ r, regAtWord w = some r ∧ r.offset.toNat = 4 * w := by
  have hw : w < 14 ∨ (0x010 ≤ w ∧ w < 0x020) ∨ (0x040 ≤ w ∧ w < 0x072) ∨ (0x080 ≤ w ∧ w < 0x0A4) := by
    unfold ReservedWord at h
    omega
  rcases hw with hw | ⟨h1, h2⟩ | ⟨h1, h2⟩ | ⟨h1, h2⟩
  · exact regAtWord_of_lt hw
  · obtain ⟨j, rfl⟩ := Nat.exists_eq_add_of_le h1
    have hj : j < 16 := by omega
    exact ⟨_, regAtWord_digest ⟨j, hj⟩, digest_offset_toNat ⟨j, hj⟩⟩
  · obtain ⟨j, rfl⟩ := Nat.exists_eq_add_of_le h1
    have hj : j < 50 := by omega
    exact ⟨_, regAtWord_state ⟨j, hj⟩, state_offset_toNat ⟨j, hj⟩⟩
  · obtain ⟨j, rfl⟩ := Nat.exists_eq_add_of_le h1
    have hj : j < 36 := by omega
    exact ⟨_, regAtWord_buf ⟨j, hj⟩, buf_offset_toNat ⟨j, hj⟩⟩

/-! ### The register at an address (R63) -/

/-- An address reaches no register exactly when its word number is reserved. -/
theorem regAt_eq_none_iff {a : Offset} : regAt a = none ↔ ReservedWord (a.extractLsb' 2 10).toNat := by
  refine ⟨fun h => ?_, regAtWord_of_reserved⟩
  by_contra hn
  obtain ⟨r, hr, -⟩ := regAtWord_of_not_reserved hn
  cases h.symm.trans hr

/-- The register an address reaches lies at the address with its two low bits cleared. -/
theorem offset_of_regAt {a : Offset} {r : Reg} (h : regAt a = some r) : r.offset = alignOffset a := by
  have hn : ¬ReservedWord (a.extractLsb' 2 10).toNat := by
    rw [← regAt_eq_none_iff, h]
    simp
  obtain ⟨r', hr', ho⟩ := regAtWord_of_not_reserved hn
  cases h.symm.trans hr'
  exact BitVec.eq_of_toNat_eq (ho.trans (alignOffset_toNat a).symm)

/-- Each register is reached at its offset. -/
theorem regAt_offset (r : Reg) : regAt r.offset = some r := by
  rw [regAt, extractLsb'_addr_toNat]
  cases r
  case digest j => rw [digest_offset_toNat, Nat.mul_div_cancel_left _ (by decide), regAtWord_digest]
  case state j => rw [state_offset_toNat, Nat.mul_div_cancel_left _ (by decide), regAtWord_state]
  case buf j => rw [buf_offset_toNat, Nat.mul_div_cancel_left _ (by decide), regAtWord_buf]
  all_goals rfl

/-- The reserved word numbers are R50's ranges of offsets; the last ends where the window does. -/
theorem reservedWord_iff_offset (a : Offset) : ReservedWord (a.extractLsb' 2 10).toNat ↔
    (0x038 ≤ (alignOffset a).toNat ∧ (alignOffset a).toNat ≤ 0x03C) ∨
    (0x080 ≤ (alignOffset a).toNat ∧ (alignOffset a).toNat ≤ 0x0FC) ∨
    (0x1C8 ≤ (alignOffset a).toNat ∧ (alignOffset a).toNat ≤ 0x1FC) ∨
    (0x290 ≤ (alignOffset a).toNat ∧ (alignOffset a).toNat ≤ 0xFFC) := by
  have hlt : (a.extractLsb' 2 10).toNat < 1024 := (a.extractLsb' 2 10).isLt
  rw [alignOffset_toNat, ReservedWord]
  omega

/-- BASE is taken off by the interconnect (R60). -/
theorem portAddr_base_add {off : Nat} (h : off < 0x1000) :
    portAddr (Config.base + off) = some (BitVec.ofNat 12 off) := by
  rw [portAddr, if_pos ⟨by omega, by omega⟩, Nat.add_sub_cancel_left]

/-! ### Accesses that do nothing to the block -/

/-- A read at a reserved offset delivers zero, and no free value is drawn (R50). -/
theorem step_reads_reserved {s : State} {a : Offset} (h : HostReads s a) (hr : regAt a = none) :
    step s = .next { hostTaken s with received := 0 :: s.received } := by
  have hf : readIsFree (hostTaken s).blk a = false := by rw [readIsFree, hr]
  have hv : readValue (hostTaken s) a = 0 := by
    rw [readValue, hf, hr]
    rfl
  rw [step_hostReads h, hostRead, hf, hv]
  rfl

/-- The read-only registers (10_state.md R30). -/
def Reg.ReadOnly (r : Reg) : Prop :=
  r ∈ [Reg.id, .params, .mode, .digestSize, .blockSize, .rate, .capacity, .errAddr, .errData] ∨
    ∃ j, r = .digest j

/-- A write to a read-only register does nothing (R31). -/
theorem Reg.ReadOnly.writeReg_eq {r : Reg} (h : r.ReadOnly) (d : Word) (b : Block) :
    r ≠ .cmd ∧ writeReg r d b = b := by
  rcases h with h | ⟨j, rfl⟩
  · simp only [List.mem_cons, List.not_mem_nil, or_false] at h
    rcases h with rfl | rfl | rfl | rfl | rfl | rfl | rfl | rfl | rfl <;> exact ⟨by decide, rfl⟩
  · exact ⟨by simp, rfl⟩

/-- Settles O19: word numbers for the addresses, and one lemma for each kind of access. -/
theorem addressDecoding : Obligations.AddressDecoding := by
  unfold Obligations.AddressDecoding
  refine ⟨fun a a' h => by rw [regAt, regAt, h], regAt_offset, fun _ _ => offset_of_regAt,
    fun a => regAt_eq_none_iff.trans (reservedWord_iff_offset a), fun _ _ hr h => step_reads_reserved h hr,
    fun _ _ _ hr h => step_writes_reserved h hr, fun s a d r h hr hro => ?_, fun _ => portAddr_base_add⟩
  obtain ⟨hc, hw⟩ := Reg.ReadOnly.writeReg_eq hro d s.blk
  exact step_ignores_write h hr hc hw

end Sys2Proof.Machine
end

section
namespace Sys2Proof.Machine

/-! ### Illegal words (30_encoding.md R100) -/

/-- The decoder refuses exactly the words on the list of R100. -/
theorem decode_error_iff_illegalWord (c : Word) : (∃ e, decode c = .error e) ↔ illegalWord c = true := by
  refine ⟨fun ⟨_, he⟩ => illegalWord_of_decode_error he, fun hill => ?_⟩
  cases hd : decode c with
  | error e => exact ⟨e, rfl⟩
  | ok i => cases hill.symm.trans (illegalWord_eq_false_of_decode hd)

/-- Settles O4: the decoder's refusals, and the rejection of an illegal CMD write field by field. -/
theorem illegalWordsRejected : Obligations.IllegalWordsRejected := by
  unfold Obligations.IllegalWordsRejected
  refine fun c => ⟨decode_error_iff_illegalWord c, fun s a hill hw hr hidle => ?_⟩
  obtain ⟨e, he⟩ := (decode_error_iff_illegalWord c).mpr hill
  have hstep : step s = .next { hostTaken s with blk := raiseErr .cmd 0x008#12 c s.blk } := by
    rw [step_writes_illegal hw hr he, hidle]
    rfl
  rw [hstep, raiseErr_eq]
  simp

end Sys2Proof.Machine
end

section
namespace Sys2Proof.Machine

/-! ### The rotation on a pair of words (41_permutation.md R122, R123) -/

/-- A word shifted left, and another's upper bits moved in below it: bit `k` came from one or from the other. -/
theorem getLsbD_shiftIn {w : Nat} (u v : BitVec w) {n k : Nat} (hk : k < w) :
    (u <<< n ||| v >>> (w - n)).getLsbD k = if n ≤ k then u.getLsbD (k - n) else v.getLsbD (w - n + k) := by
  rw [BitVec.getLsbD_or, BitVec.getLsbD_shiftLeft, BitVec.getLsbD_ushiftRight]
  by_cases hnk : n ≤ k
  · rw [v.getLsbD_of_ge (w - n + k) (by omega)]
    simp [hk, hnk]
  · simp [hnk, Nat.lt_of_not_le hnk]

/-- Bit `k` of a lane rotated left by `n` was `n` places below, cyclically. -/
theorem getLsbD_rot (a : Lane) {n k : Nat} (hk : k < 64) :
    (rot a n).getLsbD k = if n ≤ k then a.getLsbD (k - n) else a.getLsbD (64 - n + k) := by
  unfold rot
  by_cases h0 : n = 0
  · simp [h0]
  · rw [if_neg h0, getLsbD_shiftIn a a hk]

/-- Two rotations of at most one turn together are one. -/
theorem rot_rot (a : Lane) {m n : Nat} (h : m + n ≤ 64) : rot (rot a m) n = rot a (m + n) := by
  apply BitVec.eq_of_getLsbD_eq
  intro k hk
  rw [getLsbD_rot _ hk, getLsbD_rot _ hk]
  by_cases hn : n ≤ k
  · rw [if_pos hn, getLsbD_rot _ (by omega)]
    by_cases hm : m ≤ k - n
    · rw [if_pos hm, if_pos (by omega), show k - n - m = k - (m + n) by omega]
    · rw [if_neg hm, if_neg (by omega), show 64 - m + (k - n) = 64 - (m + n) + k by omega]
  · rw [if_neg hn, if_neg (by omega), getLsbD_rot _ (by omega), if_pos (by omega),
      show 64 - n + k - m = 64 - (m + n) + k by omega]

/-- A bit of a lane is in the low word of its pair below 32, and in the high word from 32. -/
theorem getLsbD_joinLane (p : LanePair) (k : Nat) :
    (joinLane p).getLsbD k = if k < 32 then p.lo.getLsbD k else p.hi.getLsbD (k - 32) :=
  BitVec.getLsbD_append

/-- Splitting a lane loses no bit. -/
theorem joinLane_splitLane (a : Lane) : joinLane (splitLane a) = a := by
  apply BitVec.eq_of_getLsbD_eq
  intro k hk
  rw [getLsbD_joinLane]
  split
  · simp [splitLane, *]
  · simp [splitLane, show k - 32 < 32 by omega, show 32 + (k - 32) = k by omega]

/-- The two words exchanged are the lane rotated by 32. -/
theorem joinLane_swap (p : LanePair) : joinLane ⟨p.lo, p.hi⟩ = rot (joinLane p) 32 := by
  apply BitVec.eq_of_getLsbD_eq
  intro k hk
  rw [getLsbD_rot _ hk, getLsbD_joinLane]
  by_cases hk32 : k < 32
  · rw [if_pos hk32, if_neg (by omega), getLsbD_joinLane, if_neg (by omega)]
    simp
  · rw [if_neg hk32, if_pos (by omega), getLsbD_joinLane, if_pos (by omega)]

/-- The short rotation of a pair is that of its lane. -/
theorem joinLane_rotPairShort (p : LanePair) {n : Nat} (hn : n < 32) :
    joinLane (rotPairShort p n) = rot (joinLane p) n := by
  apply BitVec.eq_of_getLsbD_eq
  intro k hk
  rw [getLsbD_rot _ hk, getLsbD_joinLane, rotPairShort]
  by_cases hk32 : k < 32
  · rw [if_pos hk32, getLsbD_shiftIn _ _ hk32]
    by_cases hnk : n ≤ k
    · rw [if_pos hnk, if_pos hnk, getLsbD_joinLane, if_pos (by omega)]
    · rw [if_neg hnk, if_neg hnk, getLsbD_joinLane, if_neg (by omega),
        show 64 - n + k - 32 = 32 - n + k by omega]
  · rw [if_neg hk32, getLsbD_shiftIn _ _ (by omega), if_pos (show n ≤ k by omega), getLsbD_joinLane]
    by_cases hnk : n ≤ k - 32
    · rw [if_pos hnk, if_neg (by omega), Nat.sub_right_comm]
    · rw [if_neg hnk, if_pos (by omega), show 32 - n + (k - 32) = k - n by omega]

/-- Rotation of a pair is rotation of its lane (R123). -/
theorem joinLane_rotPair (p : LanePair) {n : Nat} (hn : n < 64) : joinLane (rotPair p n) = rot (joinLane p) n := by
  unfold rotPair
  split_ifs with h0 h1 h2
  · simp [h0, rot]
  · exact joinLane_rotPairShort p h1
  · rw [joinLane_swap, h2]
  · rw [joinLane_rotPairShort _ (by omega), joinLane_swap, rot_rot _ (by omega), Nat.add_sub_cancel' (by omega)]

/-- Both lane representations rotate alike. -/
theorem buildRot_eq_rot (dl : DatapathLane) (a : Lane) {n : Nat} (hn : n < 64) : buildRot dl a n = rot a n := by
  cases dl with
  | native64 => rfl
  | pair32 => rw [buildRot, joinLane_rotPair _ hn, joinLane_splitLane]

/-! ### A round of a build (R118, R123) -/

theorem thetaWith_buildRot (dl : DatapathLane) : thetaWith (buildRot dl) = theta := by
  funext A
  simp only [theta, thetaWith, thetaD, buildRot_eq_rot dl _ (show 1 < 64 by decide)]

/-- ρ's offsets are less than a lane's width (R114). -/
theorem rhoOffset_lt (k : Fin 25) : rhoOffset (k.val % 5) (k.val / 5) < 64 := by
  revert k
  decide

theorem rhoWith_buildRot (dl : DatapathLane) : rhoWith (buildRot dl) = rho := by
  funext A
  simp only [rho, rhoWith, buildLanes, buildRot_eq_rot dl _ (rhoOffset_lt _)]

/-- A round is the same in every build. -/
theorem roundWith_buildRot (dl : DatapathLane) : roundWith (buildRot dl) = keccakRound := by
  funext A i
  rw [roundWith, thetaWith_buildRot, rhoWith_buildRot]
  rfl

/-! ### The rounds of the passes (R124) -/

/-- The rounds `i` to `j - 1`, in ascending order. -/
def roundsBetween (i j : Nat) (A : Lanes) : Lanes := (List.range' i (j - i)).foldl keccakRound A

@[simp] theorem roundsBetween_self (i : Nat) (A : Lanes) : roundsBetween i i A = A := by
  simp [roundsBetween]

/-- Rounds `i` to `j - 1` and then `j` to `k - 1` are rounds `i` to `k - 1`. -/
theorem roundsBetween_trans {i j k : Nat} (hij : i ≤ j) (hjk : j ≤ k) (A : Lanes) :
    roundsBetween j k (roundsBetween i j A) = roundsBetween i k A := by
  have hsplit : List.range' i (k - i) = List.range' i (j - i) ++ List.range' j (k - j) := by
    have happ := List.range'_append_1 (s := i) (m := j - i) (n := k - j)
    rw [Nat.add_sub_cancel' hij] at happ
    rw [happ]
    congr 1
    omega
  rw [roundsBetween, roundsBetween, roundsBetween, hsplit, List.foldl_append]

/-- Rounds 0 to 23 are the rounds of f. -/
theorem roundsBetween_zero_24 (A : Lanes) : roundsBetween 0 24 A = keccakRounds A := by
  rw [roundsBetween, keccakRounds, List.range_eq_range']

/-- One pass does the rounds from RC_IDX up to the next pass's, or to 23. -/
theorem enginePass_eq (dl : DatapathLane) (R : Nat) (A : Lanes) {i : Nat} (hi : i ≤ 24) :
    enginePass dl R (A, i) = (roundsBetween i (min (i + R) 24) A, min (i + R) 24) := by
  have hm : min R (24 - i) = min (i + R) 24 - i := by omega
  rw [enginePass, roundWith_buildRot, hm, roundsBetween, List.range'_eq_map_range, List.foldl_map,
    Nat.add_sub_cancel' (by omega)]

/-- `k` passes do the rounds of one pass of `k * R` rounds. -/
theorem enginePasses_eq (dl : DatapathLane) (R k : Nat) (A : Lanes) {i : Nat} (hi : i ≤ 24) :
    enginePasses dl R k (A, i) = (roundsBetween i (min (i + k * R) 24) A, min (i + k * R) 24) := by
  induction k generalizing A i with
  | zero => simp [enginePasses, Nat.min_eq_left hi]
  | succ k ih =>
    have hend : min (min (i + R) 24 + k * R) 24 = min (i + (k + 1) * R) 24 := by
      rw [Nat.succ_mul]
      omega
    rw [enginePasses, enginePass_eq dl R A hi, ih _ (by omega), hend,
      roundsBetween_trans (by omega) (by rw [Nat.succ_mul]; omega)]

/-- The passes of a build are enough for the 24 rounds. -/
theorem le_passCount_mul {R : Nat} (hR : 1 ≤ R) : 24 ≤ passCount R * R := by
  rw [Nat.mul_comm]
  exact le_smul_ceilDiv (a := R) (b := 24) hR

/-- All the passes of a build do the rounds of f, and leave RC_IDX at 24. -/
theorem enginePasses_passCount (dl : DatapathLane) {R : Nat} (hR : 1 ≤ R) (A : Lanes) :
    enginePasses dl R (passCount R) (A, 0) = (keccakRounds A, 24) := by
  have hend : min (0 + passCount R * R) 24 = 24 := by
    have := le_passCount_mul hR
    omega
  rw [enginePasses_eq dl R _ A (Nat.zero_le 24), hend, roundsBetween_zero_24]

theorem engineF_eq_keccakF (dl : DatapathLane) {R : Nat} (hR : 1 ≤ R) (S : Bytes 200) :
    engineF dl R S = keccakF S := by
  rw [engineF, enginePasses_passCount dl hR, keccakF]

/-- Settles O49: the two representations have one round, and consecutive passes are consecutive rounds. -/
theorem everyBuildComputesF : Obligations.EveryBuildComputesF := by
  unfold Obligations.EveryBuildComputesF
  refine ⟨fun dl R S hR => ⟨engineF_eq_keccakF dl hR S, by rw [enginePasses_passCount dl hR]⟩,
    fun dl R A i _ hi => ?_, fun dl A => ?_, fun S => engineF_eq_keccakF _ (Nat.succ_pos _) S⟩
  · rw [enginePass_eq dl R A hi]
    exact ⟨rfl, rfl⟩
  · simp [enginePasses_eq dl 5 _ A (Nat.zero_le 24)]

end Sys2Proof.Machine
end

section
namespace Sys2Proof.Machine

/-! ### Reading a list of bytes with zero past its end -/

/-- Two lists of one length with the same bytes are the same list. -/
theorem bytes_ext {l l' : List Byte} (hlen : l.length = l'.length)
    (h : ∀ i < l.length, l.getD i 0 = l'.getD i 0) : l = l' := by
  refine List.ext_getElem hlen fun i hi hi' => ?_
  rw [← List.getD_eq_getElem l 0 hi, ← List.getD_eq_getElem l' 0 hi']
  exact h i hi

theorem toList_getD {m : Nat} (v : Bytes m) (i : Nat) : v.toList.getD i 0 = v.getD i 0 := by
  rw [getD_vector, List.getD_eq_getElem?_getD]
  by_cases hi : i < m <;> simp [hi]

theorem take_toList_getD {m : Nat} (v : Bytes m) (k i : Nat) :
    (v.toList.take k).getD i 0 = if i < k then v.getD i 0 else 0 := by
  rw [← toList_getD, List.getD_eq_getElem?_getD, List.getElem?_take, List.getD_eq_getElem?_getD]
  split <;> rfl

/-- Zeros after a list are what is read past its end. -/
theorem append_zeros_getD (l : List Byte) (m i : Nat) : (l ++ List.replicate m 0).getD i 0 = l.getD i 0 := by
  by_cases hi : i < l.length
  · rw [List.getD_append _ _ _ _ hi]
  · rw [List.getD_append_right _ _ _ _ (by omega), List.getD_eq_getElem?_getD,
      List.getElem?_getD_replicate_default_eq, List.getD_eq_default _ _ (by omega)]

/-! ### PadBlock (42_sponge.md R150) -/

/-- A list of bytes with `x` XORed into byte `k`. -/
def xorByteAt (l : List Byte) (k : Nat) (x : Byte) : List Byte := l.set k (l.getD k 0 ^^^ x)

@[simp] theorem xorByteAt_length (l : List Byte) (k : Nat) (x : Byte) : (xorByteAt l k x).length = l.length :=
  List.length_set

theorem xorByteAt_getD {l : List Byte} {k : Nat} (hk : k < l.length) (x : Byte) (i : Nat) :
    (xorByteAt l k x).getD i 0 = l.getD i 0 ^^^ if i = k then x else 0 := by
  rw [xorByteAt, List.getD_eq_getElem?_getD]
  by_cases hi : i = k
  · subst hi
    simp [hk]
  · rw [List.getElem?_set_ne (Ne.symm hi), ← List.getD_eq_getElem?_getD]
    simp [hi]

/-- PadBlock is the buffered bytes and zeros with the two marks XORed in, one after the other. -/
theorem padBlock_toList (B : Bytes 144) {n r : Nat} (P : PadMode) (hn : n < r) (hr : r ≤ 144) :
    (padBlock B n P r).toList =
      xorByteAt (xorByteAt (B.toList.take n ++ List.replicate (r - n) 0) n (dsByte P)) (r - 1) 0x80#8 := by
  have hlen : (B.toList.take n ++ List.replicate (r - n) (0 : Byte)).length = r := by
    simp only [List.length_append, List.length_take, Vector.length_toList, List.length_replicate]
    omega
  refine bytes_ext (by simp only [xorByteAt_length, hlen, Vector.length_toList]) fun i hi => ?_
  rw [Vector.length_toList] at hi
  have hlast : i = r - 1 ↔ i + 1 = r := by omega
  rw [xorByteAt_getD (by rw [xorByteAt_length, hlen]; omega), xorByteAt_getD (by rw [hlen]; omega),
    append_zeros_getD, take_toList_getD, toList_getD, getD_vector, dif_pos hi, padBlock, Vector.getElem_ofFn,
    padByte]
  simp only [hlast]

/-- PadBlock reads only the buffered bytes. -/
theorem padBlock_congr_below {n : Nat} {B B' : Bytes 144} (P : PadMode) (r : Nat)
    (h : ∀ i < n, B.getD i 0 = B'.getD i 0) : padBlock B n P r = padBlock B' n P r := by
  apply Vector.ext
  intro i hi
  rw [padBlock, padBlock, Vector.getElem_ofFn, Vector.getElem_ofFn, padByte, padByte]
  by_cases hin : i < n
  · rw [h i hin]
  · rw [if_neg hin, if_neg hin]

/-- Settles O52: PadBlock byte by byte, and what it reads of the buffer. -/
theorem padBlockRule : Obligations.PadBlockRule := by
  unfold Obligations.PadBlockRule
  refine ⟨fun B n P V hn => ?_, fun B B' n P V h => padBlock_congr_below P (rb V) h⟩
  have hr : rb V ≤ 144 := by cases V <;> decide
  exact padBlock_toList B P hn hr

/-! ### Squeeze (42_sponge.md R153) -/

/-- The last pass of the loop. -/
theorem squeezeLoop_last {need r : Nat} (fuel : Nat) (W : Bytes 200) (h : need ≤ r) :
    squeezeLoop (fuel + 1) W need r = W.toList.take need := by
  simp [squeezeLoop, Nat.min_eq_left h]

/-- A pass that more passes follow. -/
theorem squeezeLoop_more {need r : Nat} (fuel : Nat) (W : Bytes 200) (h : r < need) :
    squeezeLoop (fuel + 1) W need r = W.toList.take r ++ squeezeLoop fuel (keccakF W) (need - r) r := by
  simp [squeezeLoop, Nat.min_eq_right h.le, h.ne']

theorem squeezeLoop_length {fuel need r : Nat} (W : Bytes 200) (hr : 1 ≤ r) (hr' : r ≤ 200)
    (hf : need < fuel) : (squeezeLoop fuel W need r).length = need := by
  induction fuel generalizing W need with
  | zero => omega
  | succ fuel ih =>
    by_cases h : need ≤ r
    · rw [squeezeLoop_last fuel W h, List.length_take, Vector.length_toList]
      omega
    · rw [squeezeLoop_more fuel W (by omega), List.length_append, ih _ (by omega), List.length_take,
        Vector.length_toList]
      omega

/-- The first block of the output, whether or not more passes follow, is read out of W as it stands. -/
theorem squeezeLoop_getD_of_lt {need r i : Nat} (fuel : Nat) (W : Bytes 200) (hr : r ≤ 200) (hi : i < need)
    (hir : i < r) : (squeezeLoop (fuel + 1) W need r).getD i 0 = W.getD i 0 := by
  by_cases h : need ≤ r
  · rw [squeezeLoop_last fuel W h, take_toList_getD, if_pos hi]
  · have hlen : (W.toList.take r).length = r := by simpa using hr
    rw [squeezeLoop_more fuel W (by omega), List.getD_append _ _ _ _ (by omega), take_toList_getD,
      if_pos hir]

/-- Byte `i` comes from the state after `i / r` further permutations. -/
theorem squeezeLoop_getD {fuel need r i : Nat} (W : Bytes 200) (hr : 1 ≤ r) (hr' : r ≤ 200)
    (hf : need < fuel) (hi : i < need) :
    (squeezeLoop fuel W need r).getD i 0 = (Nat.iterate keccakF (i / r) W).getD (i % r) 0 := by
  induction fuel generalizing W need i with
  | zero => omega
  | succ fuel ih =>
    by_cases hir : i < r
    · rw [squeezeLoop_getD_of_lt fuel W hr' hi hir, Nat.div_eq_of_lt hir, Nat.mod_eq_of_lt hir]
      rfl
    · have hri : r ≤ i := by omega
      have hlen : (W.toList.take r).length = r := by simpa using hr'
      rw [squeezeLoop_more fuel W (by omega), List.getD_append_right _ _ _ _ (by omega), hlen,
        ih _ (by omega) (by omega), Nat.div_eq_sub_div hr hri, Nat.mod_eq_sub_mod hri]
      rfl

/-- Settles O53: the loop by induction on its passes, and the one pass of the four variants. -/
theorem squeezeLoop_spec : Obligations.SqueezeLoop := by
  unfold Obligations.SqueezeLoop
  refine ⟨fun W out r hr hr' => ⟨?_, fun i hi => ?_⟩, fun V => (outLen_le V).1,
    fun V => squeeze_of_le (outLen_le V).1⟩
  · exact squeezeLoop_length W hr hr' (Nat.lt_succ_self out)
  · exact squeezeLoop_getD W hr hr' (Nat.lt_succ_self out) hi

/-! ### The digest register (42_sponge.md R156) -/

/-- The register shows a digest that fits it byte by byte, and zero past the digest's end. -/
theorem digestReg_getD {Z : List Byte} (hZ : Z.length ≤ 64) (i : Nat) :
    (digestReg Z).getD i 0 = Z.getD i 0 := by
  rw [getD_vector]
  by_cases hi : i < 64
  · rw [dif_pos hi, digestReg, Vector.getElem_ofFn]
  · rw [dif_neg hi, List.getD_eq_default _ _ (by omega)]

theorem digestReg_toList {Z : List Byte} (hZ : Z.length ≤ 64) :
    (digestReg Z).toList = Z ++ List.replicate (64 - Z.length) 0 := by
  have hlen : (Z ++ List.replicate (64 - Z.length) (0 : Byte)).length = 64 := by
    rw [List.length_append, List.length_replicate]
    omega
  refine bytes_ext (by rw [hlen, Vector.length_toList]) fun i _ => ?_
  rw [toList_getD, digestReg_getD hZ, append_zeros_getD]

theorem le32_eq_zero {m : Nat} {b : Bytes m} {i : Nat} (h : ∀ k < 4, b.getD (i + k) 0 = 0) :
    le32 b i = 0 := by
  apply word_ext
  intro k hk
  rw [wordByte_le32 b i hk, h k hk]
  simp [wordByte]

/-- A DIGEST word past the digest reads 0. -/
theorem le32_digestReg_eq_zero {Z : List Byte} {i : Nat} (hZ : Z.length ≤ 64) (hi : Z.length ≤ i) :
    le32 (digestReg Z) i = 0 := by
  refine le32_eq_zero fun k _ => ?_
  rw [digestReg_getD hZ, List.getD_eq_default _ _ (by omega)]

/-- FINAL's completion writes the digest of the block the engine found. -/
theorem completes_final_DG {s : State} (h : Completes s .final) :
    ∃ t, step s = .next t ∧
      t.blk.DG = digestReg (finalize s.blk.S s.blk.B s.blk.n.toNat s.blk.V s.blk.P) := by
  obtain ⟨p, -, -, -, hstep⟩ := completes_next h
  exact ⟨_, hstep, finalBlock_DG s.blk⟩

/-- Settles O54: the completion's DG, and the words of the register past the digest. -/
theorem digestRegisterWrite : Obligations.DigestRegisterWrite := by
  unfold Obligations.DigestRegisterWrite
  intro s h
  obtain ⟨t, hstep, hDG⟩ := completes_final_DG h
  have hlen := finalize_length s.blk.S s.blk.B s.blk.n.toNat s.blk.V s.blk.P
  have h64 : outLen s.blk.V ≤ 64 := by cases s.blk.V <;> decide
  have hzero : ∀ j : Fin 16, outLen s.blk.V ≤ 4 * j.val → regValue t.blk (.digest j) = 0 := by
    intro j hj
    rw [regValue, hDG]
    exact le32_digestReg_eq_zero (by omega) (by omega)
  refine ⟨t, hstep, ?_, hzero, fun hV j hj => hzero j ?_⟩
  · rw [hDG, digestReg_toList (by omega), hlen]
  · have h224 : outLen s.blk.V = 28 := by rw [hV]; rfl
    omega

end Sys2Proof.Machine
end

section

/-! Rejected writes and the interrupt output (60_exceptions.md R201 to R208): a rejection is `raiseErr` at the
word-aligned address of the write, no other write sets an error flag, and irq is a function of STATUS and
IRQ_EN. -/

namespace Sys2Proof.Machine

/-! ### Every host write is rejected or goes through (60_exceptions.md R200 to R207) -/

theorem cmdWrite_next (c : Word) (s : State) : ∃ t, cmdWrite c s = .next t := by
  unfold cmdWrite
  split
  · exact exec_next _ s
  · exact ⟨_, rfl⟩

theorem hostWrite_next (a : Offset) (d : Word) (s : State) : ∃ t, hostWrite a d s = .next t := by
  unfold hostWrite
  split
  · exact cmdWrite_next d s
  · exact ⟨_, rfl⟩
  · exact ⟨_, rfl⟩

/-- A rejected write raises its cause at its own address, word-aligned (R205). -/
theorem step_rejected_aligned {s : State} {a : Offset} {d : Word} {k : ErrKind} (h : HostWrites s a d)
    (hk : rejection s.blk a d = some k) :
    step s = .next { hostTaken s with blk := raiseErr k (alignOffset a) d s.blk } := by
  obtain ⟨r, hr, hstep⟩ := step_rejected h hk
  rw [hstep, offset_of_regAt hr]

/-- A host write that sets an error flag is rejected for that flag's cause. -/
theorem rejection_of_errFlag_rises {s t : State} {a : Offset} {d : Word} {k : ErrKind}
    (h : HostWrites s a d) (ht : step s = .next t) (h0 : errFlag k s.blk = false)
    (h1 : errFlag k t.blk = true) : rejection s.blk a d = some k := by
  rcases (stepEffect_of_step ht).errFlag_rises h0 h1 with hp | ⟨a', d', h', hk⟩
  · cases h.1.2.symm.trans hp
  · obtain ⟨rfl, rfl⟩ := hostWrites_unique h h'
    exact hk

/-- Settles O15: a rejection is `raiseErr` at the aligned address; a write without one raises no flag. -/
theorem rejectedWriteChangesOnlyItsFlag : Obligations.RejectedWriteChangesOnlyItsFlag := by
  unfold Obligations.RejectedWriteChangesOnlyItsFlag
  intro s a d h
  refine ⟨fun k hk => ?_, fun hnone => ?_⟩
  · rw [step_rejected_aligned h hk, raiseErr_eq]
  · obtain ⟨t, ht⟩ := hostWrite_next a d (hostTaken s)
    have hstep : step s = .next t := (step_hostWrites h).trans ht
    refine ⟨t, hstep, fun k h1 => ?_⟩
    by_contra h0
    cases hnone.symm.trans (rejection_of_errFlag_rises h hstep (Bool.eq_false_of_not_eq_true h0) h1)

/-! ### The capture of the first rejection (60_exceptions.md R205) -/

theorem anyErr_eq_false_iff (b : Block) : anyErr b = false ↔
    b.errBusy = false ∧ b.errCmd = false ∧ b.errSeq = false ∧ b.errCount = false := by
  simp only [anyErr, Bool.or_eq_false_iff, and_assoc]

/-- Settles O14: `raiseErr_eq`, with the guard of the capture spelt out flag by flag. -/
theorem raiseCapturesFirstRejection : Obligations.RaiseCapturesFirstRejection := by
  unfold Obligations.RaiseCapturesFirstRejection
  intro k off d b
  rw [raiseErr_eq]
  simp only [← anyErr_eq_false_iff]
  cases anyErr b <;> rfl

/-! ### The interrupt output (60_exceptions.md R208) -/

/-- STATUS bit by bit (R35). -/
theorem statusWord_getLsbD (b : Block) {i : Nat} (hi : i < 32) : (statusWord b).getLsbD i =
    (b.busy && decide (i = 0) || b.inited && decide (i = 1) || b.DV && decide (i = 2) ||
      b.done && decide (i = 3) || b.errBusy && decide (i = 8) || b.errCmd && decide (i = 9) ||
      b.errSeq && decide (i = 10) || b.errCount && decide (i = 11)) := by
  simp only [statusWord, BitVec.getLsbD_or, flagAt_getLsbD _ hi]

theorem statusWord_done (b : Block) : (statusWord b).getLsbD 3 = b.done := by
  rw [statusWord_getLsbD b (by decide)]
  simp

theorem statusWord_errBit (k : ErrKind) (b : Block) :
    (statusWord b).getLsbD (errBit k) = errFlag k b := by
  rw [statusWord_getLsbD b (by cases k <;> decide)]
  cases k <;> simp [errBit, errFlag]

/-- Settles O18: the bits of STATUS that irq is built from are DONE and the four error flags. -/
theorem irqLevel : Obligations.IrqLevel := by
  unfold Obligations.IrqLevel
  intro b
  have hbusy : (statusWord b).getLsbD 8 = b.errBusy := statusWord_errBit .busy b
  have hcmd : (statusWord b).getLsbD 9 = b.errCmd := statusWord_errBit .cmd b
  have hseq : (statusWord b).getLsbD 10 = b.errSeq := statusWord_errBit .seq b
  have hcount : (statusWord b).getLsbD 11 = b.errCount := statusWord_errBit .count b
  rw [irq, anyErr, statusWord_done, hbusy, hcmd, hseq, hcount]

end Sys2Proof.Machine
end

section

/-! A clock edge with rst_n = 0 (70_reset_and_hazards.md R230): it answers a next state unless a sub-word store
is presented, the block it leaves is a `resetBlock`, and each register of such a block reads the after-reset
value of 10_state.md. -/

namespace Sys2Proof.Machine

/-! ### The reset edge goes on -/

/-- Only a sub-word store keeps an access under reset from answering a next state. -/
theorem accessUnderReset_next {s : State} (h : ∀ size a d, s.host.head? ≠ some (.wrNarrow size a d)) :
    ∃ t, accessUnderReset s = .next t := by
  unfold accessUnderReset
  split
  case h_4 size a d rest hs => exact absurd (congrArg List.head? hs) (h size a d)
  all_goals exact ⟨_, rfl⟩

/-- With or without a 32-bit access in it, a reset edge is a step and resets the block. -/
theorem step_resetEdge {s : State}
    (h : nextTurn s = .reset ∨
      (nextTurn s = .resetWithAccess ∧ ∀ size a d, s.host.head? ≠ some (.wrNarrow size a d))) :
    ∃ t, step s = .next t ∧ (∃ k, t.blk = resetBlock k) ∧ t.wasReset = true := by
  rcases h with h | ⟨h, hword⟩
  · exact ⟨_, step_reset h, ⟨_, rfl⟩, rfl⟩
  · obtain ⟨t, ht⟩ := accessUnderReset_next (s := beginStep .host s) hword
    exact ⟨t, (step_resetWithAccess h).trans ht, accessUnderReset_blk ht⟩

/-! ### The registers of a reset block -/

theorem le32_replicate_zero (m i : Nat) : le32 (Vector.replicate m (0 : Byte)) i = 0 := by
  refine le32_eq_zero fun k _ => ?_
  rw [getD_vector]
  split
  · exact Vector.getElem_replicate _
  · rfl

/-- The after-reset column of the register map (10_state.md R30). -/
def Reg.resetValue : Reg → Word
  | .id => 0x4B454343#32
  | .params => paramsWord
  | .digestSize => 0x1C#32
  | .blockSize => 0x90#32
  | .rate => 0x480#32
  | .capacity => 0x1C0#32
  | _ => 0#32

/-- No register shows W or RC_IDX, the elements a reset leaves free (log 6). -/
theorem regValue_resetBlock (k : Nat) (r : Reg) : regValue (resetBlock k) r = regValue Block.reset r := by
  cases r <;> simp [regValue, statusWord, modeWord]

theorem regValue_reset (r : Reg) : regValue Block.reset r = r.resetValue := by
  cases r
  case params => rfl
  case digest j => exact le32_replicate_zero 64 _
  case state j => exact le32_replicate_zero 200 _
  case buf j => exact le32_replicate_zero 144 _
  all_goals decide

/-- Settles O34: the edge leaves a `resetBlock`, whose elements and registers hold their reset values. -/
theorem resetEdge : Obligations.ResetEdge := by
  unfold Obligations.ResetEdge
  intro s h
  obtain ⟨t, hstep, ⟨k, hblk⟩, hwas⟩ := step_resetEdge h
  have hreg : ∀ r, regValue (resetBlock k) r = r.resetValue := fun r =>
    (regValue_resetBlock k r).trans (regValue_reset r)
  have hhost : nextTurn s = .reset → t.host = s.host ∧ t.received = s.received := by
    intro hr
    cases (step_reset hr).symm.trans hstep
    exact ⟨rfl, rfl⟩
  refine ⟨t, hstep, ?_⟩
  rw [hblk]
  refine ⟨rfl, rfl, rfl, rfl, rfl, rfl, rfl, rfl, rfl, rfl, rfl, rfl, rfl, rfl, rfl, rfl, rfl, rfl, rfl, rfl,
    fun r => ?_, hreg .params, hwas, hhost⟩
  cases r
  case params => exact .inl rfl
  all_goals exact .inr (hreg _)

end Sys2Proof.Machine
end

section

/-! Command words (30_encoding.md R90 to R101; 60_exceptions.md R200): encoding and decoding are inverse on the
legal words, a CMD write runs the command it encodes, and the acceptance procedure in terms of the word's own
fields. -/

namespace Sys2Proof

/-! ### The words of the legal commands -/

/-- A legal instruction's word decodes to it: per mnemonic, over the operands it can carry. -/
theorem decode_encode {i : Instr} (h : i.wf = true) : decode (encode i) = .ok i := by
  cases i with
  | nop => rfl
  | init v p => cases v <;> cases p <;> rfl
  | absorb k => revert k; decide
  | final => rfl
  | permute => rfl
  | sreset => rfl

/-- Settles O1, by the operands of each mnemonic. -/
theorem decodeOfEncode : Obligations.DecodeOfEncode := by
  unfold Obligations.DecodeOfEncode
  exact fun _ h => decode_encode h

/-- Settles O2, from the fields of a word that decodes. -/
theorem encodeOfDecode : Obligations.EncodeOfDecode := by
  unfold Obligations.EncodeOfDecode
  exact fun _ _ h => ⟨(decode_ok_fields h).1, encode_of_decode h⟩

/-- Settles O3: each listed word is the word of its command, and so decodes to it. -/
theorem legalWordsDecode : Obligations.LegalWordsDecode := by
  unfold Obligations.LegalWordsDecode
  exact ⟨decode_encode (i := .nop) rfl, decode_encode (i := .init .sha3_224 .keccak) rfl,
    decode_encode (i := .init .sha3_256 .keccak) rfl, decode_encode (i := .init .sha3_384 .keccak) rfl,
    decode_encode (i := .init .sha3_512 .keccak) rfl, decode_encode (i := .init .sha3_224 .fips202) rfl,
    decode_encode (i := .init .sha3_256 .fips202) rfl, decode_encode (i := .init .sha3_384 .fips202) rfl,
    decode_encode (i := .init .sha3_512 .fips202) rfl, decode_encode (i := .absorb 0) rfl,
    decode_encode (i := .absorb 1) rfl, decode_encode (i := .absorb 2) rfl,
    decode_encode (i := .absorb 3) rfl, decode_encode (i := .absorb 4) rfl,
    decode_encode (i := .final) rfl, decode_encode (i := .permute) rfl, decode_encode (i := .sreset) rfl⟩

namespace Machine

/-! ### The step that runs an instruction (10_state.md R34, 20_memory.md R66) -/

/-- The word-aligned address of CMD reaches CMD (20_memory.md R63). -/
theorem regAt_of_alignOffset_cmd {a : Offset} (h : alignOffset a = 0x008#12) : regAt a = some .cmd := by
  have hw : (a.extractLsb' 2 10).toNat = 2 := by
    have := alignOffset_toNat a
    rw [h] at this
    change 8 = _ at this
    omega
  rw [regAt, hw]
  rfl

/-- Settles O5: a CMD write is `cmdWrite`, and the engine's step is `step_completes`. -/
theorem stepRunsDecodedInstruction : Obligations.StepRunsDecodedInstruction := by
  unfold Obligations.StepRunsDecodedInstruction
  refine ⟨fun s a c i h ha hi => ?_, fun s i h => step_completes h⟩
  rw [step_writes_cmd h (regAt_of_alignOffset_cmd ha), cmdWrite, hi]

/-- A row of the opcode table that decodes is the word of the command. -/
theorem decode_of_decodeTableWord {nbits w : Nat} {i : Instr} (h : decodeTableWord nbits w = some i) :
    decode (BitVec.ofNat 32 (w % 2 ^ nbits)) = .ok i := by
  unfold decodeTableWord at h
  split at h
  · split at h
    · next j hj => cases h; exact hj
    · cases h
  · cases h

/-- Settles O6: the placed write is the host's next access, and its word decodes to the instruction. -/
theorem placedWordRunsNext : Obligations.PlacedWordRunsNext := by
  unfold Obligations.PlacedWordRunsNext
  intro s nbits w i hi
  have hw : HostWrites (s.withFetchWord nbits w) Reg.cmd.offset (BitVec.ofNat 32 (w % 2 ^ nbits)) :=
    ⟨⟨rfl, rfl⟩, rfl⟩
  rw [step_writes_cmd hw (regAt_offset .cmd), cmdWrite, decode_of_decodeTableWord hi]
  rfl

/-! ### The acceptance procedure (60_exceptions.md R200) -/

/-- The acceptance checks on a word other than SRESET's give this block. -/
def acceptedBlock (c : Word) (b : Block) : Block :=
  if b.busy then raiseErr .busy 0x008#12 c b
  else if illegalWord c then raiseErr .cmd 0x008#12 c b
  else if (c.extractLsb' 0 8 = 0x02#8 ∨ c.extractLsb' 0 8 = 0x03#8) ∧ b.inited = false then
    raiseErr .seq 0x008#12 c b
  else { b with pend := some ⟨c.extractLsb' 0 8, c.extractLsb' 8 8, b.dataIn⟩, busy := true }

/-- The acceptance of a legal command is that of its word: the checks in the order of R206. -/
theorem issue_blk_eq_acceptedBlock {c : Word} {i : Instr} (hi : decode c = .ok i) (s : State) :
    (issue (needsInit i) i s).blk = acceptedBlock c s.blk := by
  obtain ⟨hwf, -, hop, harg⟩ := decode_ok_fields hi
  have henc := encode_of_decode hi
  have hlegal := illegalWord_eq_false_of_decode hi
  have hneeds := needsInit_iff_op hi
  unfold acceptedBlock
  simp only [hlegal, ← hneeds]
  rcases issue_blk_cases (needsInit i) i s with ⟨hb, h⟩ | ⟨-, hw, -⟩ | ⟨hb, -, hq, h0, h⟩ | ⟨hb, -, hq, h⟩
  · simp [h, hb, henc]
  · simp [hwf] at hw
  · rw [h, henc]
    simp [hb, hq, h0]
  · rw [h, acceptCmd, hop, harg]
    cases hn : needsInit i
    · simp [hb, opField, argField]
    · simp [hb, hq hn, opField, argField]

/-- Settles O7: SRESET's word apart, a legal word is its command's acceptance and any other is rejected. -/
theorem cmdWriteProcedure : Obligations.CmdWriteProcedure := by
  unfold Obligations.CmdWriteProcedure
  intro s a c hw hr
  by_cases hc : c = 0x0000000F#32
  · subst hc
    rw [step_writes_sreset hw hr, if_pos rfl]
    rfl
  · rw [if_neg hc]
    change _ = Host.Outcome.next { hostTaken s with blk := acceptedBlock c s.blk }
    cases hd : decode c with
    | ok i =>
      have hi : i ≠ .sreset := by
        rintro rfl
        exact hc (decode_eq_sreset_iff.mp hd)
      have hblk : (issue (needsInit i) i (hostTaken s)).blk = acceptedBlock c s.blk :=
        issue_blk_eq_acceptedBlock hd (hostTaken s)
      rw [step_writes_cmd hw hr, cmdWrite, hd]
      dsimp only
      rw [exec_host hi rfl, ← hblk]
      rfl
    | error e =>
      rw [step_writes_illegal hw hr hd, acceptedBlock, illegalWord_of_decode_error hd]
      cases s.blk.busy <;> rfl

end Machine
end Sys2Proof
end

section

/-! The completions (20_memory.md R66): the effect of each command on the whole machine, and ABSORB's on the
buffer byte by byte (42_sponge.md R142 to R145). -/

namespace Sys2Proof.Machine

/-! ### The effect of each command (43_facade.md, 42_sponge.md R157, 41_permutation.md R125) -/

/-- The engine's half of a command with a completion: its effect, then BUSY falls and DONE rises. -/
theorem exec_completes {i : Instr} {s : State} {p : Pend} (hi : i ≠ .sreset) (ha : s.actor = .engine)
    (hp : s.blk.pend = some p) :
    exec i s = .next { effectOf i p.data s with blk := finishCmd (effectOf i p.data s).blk } := by
  rw [exec_engine hi ha, complete_of_pend hp]

/-- Settles O8: NOP has no effect of its own. -/
theorem nopCompletes : Obligations.NopCompletes := by
  unfold Obligations.NopCompletes
  exact fun _ _ ha hp => exec_completes (by decide) ha hp

/-- Settles O9: the fields INIT writes. -/
theorem initCompletes : Obligations.InitCompletes := by
  unfold Obligations.InitCompletes
  exact fun _ _ _ _ ha hp => exec_completes (by simp) ha hp

/-- Settles O11: the fields of `finalBlock`. -/
theorem finalCompletes : Obligations.FinalCompletes := by
  unfold Obligations.FinalCompletes
  intro s p ha hp
  rw [exec_completes (by decide) ha hp]
  simp only [effectOf, finalEffect, finishCmd, finalBlock, finalize]

/-- Settles O12: S takes f(S), and the engine's hidden registers are used. -/
theorem permuteCompletes : Obligations.PermuteCompletes := by
  unfold Obligations.PermuteCompletes
  intro s p ha hp
  rw [exec_completes (by decide) ha hp]
  simp only [effectOf, permuteEffect, hiddenUsed, finishCmd]

/-- Settles O13: SRESET is `softReset` in either agent's step. -/
theorem sresetCompletes : Obligations.SresetCompletes := by
  unfold Obligations.SresetCompletes
  exact fun _ => rfl

/-! ### Bytes stored in the buffer -/

/-- `B` with the bytes of `m` stored from place `n` on. -/
def storeBytes (B : Bytes 144) (n : Nat) : List Byte → Bytes 144
  | [] => B
  | x :: m => storeBytes (B.setIfInBounds n x) (n + 1) m

theorem setIfInBounds_getD (B : Bytes 144) (n : Nat) (x : Byte) (i : Nat) :
    (B.setIfInBounds n x).getD i 0 = if i = n ∧ i < 144 then x else B.getD i 0 := by
  rw [getD_vector, getD_vector]
  by_cases hi : i < 144
  · simp [hi, Vector.getElem_setIfInBounds, eq_comm]
  · simp [hi]

/-- Every byte of the buffer after a store. -/
theorem storeBytes_getD (B : Bytes 144) (n : Nat) (m : List Byte) (i : Nat) :
    (storeBytes B n m).getD i 0 =
      if n ≤ i ∧ i < n + m.length ∧ i < 144 then m.getD (i - n) 0 else B.getD i 0 := by
  induction m generalizing B n with
  | nil => simp [storeBytes, show ¬(n ≤ i ∧ i < n ∧ i < 144) by omega]
  | cons x m ih =>
    rw [storeBytes, ih, setIfInBounds_getD, List.length_cons]
    by_cases hi : i = n
    · subst hi
      by_cases h144 : i < 144 <;> simp [h144]
    · have hiff : (n + 1 ≤ i ∧ i < n + 1 + m.length ∧ i < 144) ↔
          (n ≤ i ∧ i < n + (m.length + 1) ∧ i < 144) := by omega
      simp only [hiff, hi, false_and, if_false]
      split
      · rw [show i - n = i - (n + 1) + 1 by omega, List.getD_cons_succ]
      · rfl

/-! ### Absorbing bytes (42_sponge.md R142, R144) -/

theorem rb_bounds (V : Variant) : 72 ≤ rb V ∧ rb V ≤ 144 := by
  cases V <;> decide

theorem absorbBytes_nil (b : Block) : absorbBytes b [] = b := rfl

theorem absorbBytes_cons (b : Block) (x : Byte) (m : List Byte) :
    absorbBytes b (x :: m) = absorbBytes (absorbByte b x) m := rfl

theorem absorbBytes_append (b : Block) (m m' : List Byte) :
    absorbBytes b (m ++ m') = absorbBytes (absorbBytes b m) m' :=
  List.foldl_append

/-- Counting one more byte does not overflow the eight bits of n. -/
theorem count_succ_toNat {b : Block} (h : b.n.toNat < rb b.V) : (b.n + 1).toNat = b.n.toNat + 1 := by
  have := (rb_bounds b.V).2
  bv_omega

/-- A byte that leaves the block incomplete joins the buffer. -/
theorem absorbByte_of_lt {b : Block} (h : b.n.toNat + 1 < rb b.V) (x : Byte) :
    absorbByte b x = { b with B := b.B.setIfInBounds b.n.toNat x, n := b.n + 1 } := by
  rw [absorbByte, count_succ_toNat (by omega), if_neg (by omega)]

/-- A byte that completes the block has it absorbed, and the buffer starts empty. -/
theorem absorbByte_of_full {b : Block} (h : b.n.toNat + 1 = rb b.V) (x : Byte) :
    absorbByte b x = { b with
      S := absorbBlock b.S (firstBytes (rb b.V) (b.B.setIfInBounds b.n.toNat x))
      B := Vector.replicate 144 0
      n := 0 } := by
  rw [absorbByte, count_succ_toNat (by omega), if_pos h]

/-- Bytes that leave the block incomplete join the buffer. -/
theorem absorbBytes_of_lt {b : Block} {m : List Byte} (h : b.n.toNat + m.length < rb b.V) :
    absorbBytes b m = { b with
      B := storeBytes b.B b.n.toNat m
      n := BitVec.ofNat 8 (b.n.toNat + m.length) } := by
  induction m generalizing b with
  | nil => simp [absorbBytes_nil, storeBytes]
  | cons x m ih =>
    rw [List.length_cons] at h
    have hn := count_succ_toNat (b := b) (by omega)
    rw [absorbBytes_cons, absorbByte_of_lt (by omega), ih (by dsimp only; omega)]
    simp only [hn, storeBytes, List.length_cons, Nat.add_assoc, Nat.add_comm 1]

/-- Bytes that end the block have it absorbed, and the buffer starts empty. -/
theorem absorbBytes_of_full {b : Block} {m : List Byte} (hn : b.n.toNat < rb b.V)
    (h : b.n.toNat + m.length = rb b.V) :
    absorbBytes b m = { b with
      S := absorbBlock b.S (firstBytes (rb b.V) (storeBytes b.B b.n.toNat m))
      B := Vector.replicate 144 0
      n := 0 } := by
  induction m generalizing b with
  | nil => rw [List.length_nil] at h; omega
  | cons x m ih =>
    rw [List.length_cons] at h
    have hs := count_succ_toNat hn
    by_cases hm : m = []
    · subst hm
      rw [absorbBytes_cons, absorbByte_of_full h]
      rfl
    · have hpos := List.length_pos_iff.mpr hm
      rw [absorbBytes_cons, absorbByte_of_lt (by omega),
        ih (by dsimp only; omega) (by dsimp only; omega)]
      simp only [hs, storeBytes]

/-- Absorbing writes S, B and n alone. -/
theorem absorbBytes_frame (b : Block) (m : List Byte) :
    absorbBytes b m = { b with S := (absorbBytes b m).S, B := (absorbBytes b m).B, n := (absorbBytes b m).n } := by
  induction m generalizing b with
  | nil => rfl
  | cons x m ih =>
    have hx : absorbByte b x =
        { b with S := (absorbByte b x).S, B := (absorbByte b x).B, n := (absorbByte b x).n } := by
      unfold absorbByte
      dsimp only
      split <;> rfl
    rw [absorbBytes_cons]
    refine (ih (absorbByte b x)).trans ?_
    generalize absorbBytes (absorbByte b x) m = c
    rw [hx]

/-! ### ABSORB's completion (42_sponge.md R145) -/

@[simp] theorem inputBytes_length (k : Nat) (d : Word) : (inputBytes k d).length = k := by
  simp [inputBytes]

theorem inputBytes_getD {k j : Nat} (d : Word) (h : j < k) : (inputBytes k d).getD j 0 = wordByte d j := by
  simp [inputBytes, List.getD_eq_getElem?_getD, h]

/-- The captured bytes join the buffer when they leave the block incomplete. -/
theorem absorb_input_of_lt {b : Block} {k : Nat} (d : Word) (h : b.n.toNat + k < rb b.V) :
    (absorbBytes b (inputBytes k d)).S = b.S ∧
    (absorbBytes b (inputBytes k d)).n.toNat = b.n.toNat + k ∧
    ∀ i : Fin 144, (absorbBytes b (inputBytes k d)).B[i] =
      if b.n.toNat ≤ i.val ∧ i.val < b.n.toNat + k then wordByte d (i.val - b.n.toNat) else b.B[i] := by
  have hr := (rb_bounds b.V).2
  rw [absorbBytes_of_lt (by rwa [inputBytes_length]), inputBytes_length]
  refine ⟨rfl, by simp only [BitVec.toNat_ofNat]; omega, fun i => ?_⟩
  have hB := storeBytes_getD b.B b.n.toNat (inputBytes k d) i.val
  rw [getD_vector, dif_pos i.isLt, inputBytes_length] at hB
  refine hB.trans ?_
  by_cases hi : b.n.toNat ≤ i.val ∧ i.val < b.n.toNat + k
  · rw [if_pos ⟨hi.1, hi.2, i.isLt⟩, if_pos hi, inputBytes_getD d (by omega)]
  · rw [if_neg (fun h => hi ⟨h.1, h.2.1⟩), if_neg hi, getD_vector, dif_pos i.isLt]
    rfl

/-- The captured bytes are those that complete the block, and those left over. -/
theorem inputBytes_split {k j : Nat} (d : Word) (h : j ≤ k) :
    ∃ rest : List Byte, inputBytes k d = inputBytes j d ++ rest ∧ rest.length = k - j ∧
      ∀ i < k - j, rest.getD i 0 = wordByte d (j + i) := by
  refine ⟨(List.range' j (k - j)).map (wordByte d), ?_, by simp, fun i hi => ?_⟩
  · rw [inputBytes, inputBytes, ← List.map_append, List.range_eq_range', List.range_eq_range']
    congr 1
    have happ := List.range'_append_1 (s := 0) (m := j) (n := k - j)
    rw [Nat.zero_add, Nat.add_sub_cancel' h] at happ
    exact happ.symm
  · simp [List.getD_eq_getElem?_getD, hi]

/-- The captured bytes that complete a block have it absorbed; those left over start the cleared buffer. -/
theorem absorb_input_of_le {b : Block} {k : Nat} (d : Word) (hk : k ≤ 4) (hn : b.n.toNat < rb b.V)
    (h : rb b.V ≤ b.n.toNat + k) :
    (absorbBytes b (inputBytes k d)).S = absorbBlock b.S (Vector.ofFn fun i : Fin (rb b.V) =>
      if i.val < b.n.toNat then b.B.getD i.val 0 else wordByte d (i.val - b.n.toNat)) ∧
    (absorbBytes b (inputBytes k d)).n.toNat = b.n.toNat + k - rb b.V ∧
    ∀ i : Fin 144, (absorbBytes b (inputBytes k d)).B[i] =
      if i.val < b.n.toNat + k - rb b.V then wordByte d (rb b.V - b.n.toNat + i.val) else 0 := by
  obtain ⟨hr72, hr144⟩ := rb_bounds b.V
  obtain ⟨rest, hsplit, hlen, hrest⟩ := inputBytes_split d (show rb b.V - b.n.toNat ≤ k by omega)
  rw [hsplit, absorbBytes_append, absorbBytes_of_full hn (by rw [inputBytes_length]; omega),
    absorbBytes_of_lt (by simp only [BitVec.ofNat_eq_ofNat, BitVec.toNat_ofNat]; omega)]
  refine ⟨congrArg (absorbBlock b.S) ?_, ?_, fun i => ?_⟩
  · apply Vector.ext
    intro i hi
    rw [firstBytes, Vector.getElem_ofFn, Vector.getElem_ofFn, storeBytes_getD, inputBytes_length]
    dsimp only
    by_cases hin : i < b.n.toNat
    · rw [if_pos hin, if_neg (by omega)]
    · rw [if_neg hin, if_pos (by omega), inputBytes_getD d (by omega)]
  · simp only [BitVec.ofNat_eq_ofNat, BitVec.toNat_ofNat, hlen]
    omega
  · have hB := storeBytes_getD (Vector.replicate 144 0) 0 rest i.val
    rw [getD_vector, dif_pos i.isLt] at hB
    refine hB.trans ?_
    by_cases hi : i.val < b.n.toNat + k - rb b.V
    · rw [if_pos (by omega), if_pos hi, Nat.sub_zero, hrest _ (by omega)]
    · rw [if_neg (by omega), if_neg hi, getD_vector, dif_pos i.isLt, Vector.getElem_replicate]

/-- Settles O10: the two cases of the buffer, and `absorbBytes_frame` for the rest. -/
theorem absorbCompletes : Obligations.AbsorbCompletes := by
  unfold Obligations.AbsorbCompletes
  intro s p k ha hp hk hn
  refine ⟨_, exec_completes (by simp) ha hp, fun h => absorb_input_of_lt p.data h,
    fun h => absorb_input_of_le p.data hk hn h, ?_⟩
  change State.mk .. = _
  simp only [effectOf, absorbEffect, hiddenUsed, finishCmd]
  rw [absorbBytes_frame]

end Sys2Proof.Machine
end

section

/-! Reads of the register window (10_state.md R32 to R51, 20_memory.md R61, R67), and STATUS (R35). -/

namespace Sys2Proof.Machine

/-! ### STATUS (10_state.md R31, R35) -/

/-- Settles O24: the bits of `statusWord`, and zeros from bit 32 on. -/
theorem statusLayout : Obligations.StatusLayout := by
  unfold Obligations.StatusLayout
  intro b i
  change (statusWord b).getLsbD i = _
  by_cases hi : i < 32
  · rw [statusWord_getLsbD b hi]
    split_ifs <;> simp_all
  · rw [BitVec.getLsbD_of_ge _ i (by omega)]
    iterate 8 rw [if_neg (by omega)]

/-- Settles O25: a STATUS write is `clearFlags`. -/
theorem statusWriteClearsOnes : Obligations.StatusWriteClearsOnes := by
  unfold Obligations.StatusWriteClearsOnes
  exact fun s a d h hr => step_writes_status h hr

/-! ### The value of each register, field by field -/

/-- PARAMS: ROUNDS_PER_CYCLE fits the low byte, which is otherwise zero (R33). -/
theorem paramsWord_eq_append : paramsWord = 0x004018#24 ++ BitVec.ofNat 8 Config.roundsPerCycle := by
  have hall : ∀ p : Fin 24,
      0x00401800#32 ||| BitVec.ofNat 32 (p.val + 1) = 0x004018#24 ++ BitVec.ofNat 8 (p.val + 1) := by decide
  exact hall Config.roundsPerCyclePred

/-- STATUS: its eight flags at their places (R35). -/
theorem statusWord_eq_append (b : Block) : statusWord b =
    0#20 ++ BitVec.ofBool b.errCount ++ BitVec.ofBool b.errSeq ++ BitVec.ofBool b.errCmd ++
      BitVec.ofBool b.errBusy ++ 0#4 ++ BitVec.ofBool b.done ++ BitVec.ofBool b.DV ++
      BitVec.ofBool b.inited ++ BitVec.ofBool b.busy := by
  unfold statusWord flagAt
  generalize b.errCount = x7
  generalize b.errSeq = x6
  generalize b.errCmd = x5
  generalize b.errBusy = x4
  generalize b.done = x3
  generalize b.DV = x2
  generalize b.inited = x1
  generalize b.busy = x0
  revert x0 x1 x2 x3 x4 x5 x6 x7
  decide

/-- MODE: VARIANT in bits 1:0 and PADMODE in bit 4 (R45). -/
theorem modeWord_eq_append (b : Block) : modeWord b = 0#27 ++ b.P.bit ++ 0#2 ++ b.V.code := by
  unfold modeWord
  cases b.V <;> cases b.P <;> rfl

/-- A window inside an array is four of its bytes, the last in the highest place (00_scope.md R10). -/
theorem le32_eq_append {m : Nat} (b : Bytes m) {i : Nat} (h : i + 3 < m) :
    le32 b i = b[i + 3] ++ b[i + 2] ++ b[i + 1] ++ b[i] := by
  rw [le32, getD_vector, getD_vector, getD_vector, getD_vector, dif_pos h, dif_pos (by omega),
    dif_pos (by omega), dif_pos (by omega)]

/-- The registers of R51's list are never any32. -/
theorem busyFree_eq_false_of_mem {r : Reg} (h : r ∈ [Reg.id, .params, .cmd, .status, .irqEn, .dataIn,
    .mode, .digestSize, .blockSize, .rate, .capacity, .errAddr, .errData]) : r.busyFree = false := by
  cases r
  case count => exact absurd h (by decide)
  case digest j => simp at h
  case state j => simp at h
  case buf j => simp at h
  all_goals rfl

/-- Settles O20: an exact read by `step_reads_register`, and the value of each register. -/
theorem exactReadDeliversRegister : Obligations.ExactReadDeliversRegister := by
  unfold Obligations.ExactReadDeliversRegister
  refine fun s a r h hr hx => ⟨step_reads_register h hr (hx.imp_right busyFree_eq_false_of_mem), ?_⟩
  cases r with
  | id => rfl
  | params => exact paramsWord_eq_append
  | cmd => rfl
  | status => exact statusWord_eq_append s.blk
  | irqEn => exact BitVec.setWidth_eq_append (by decide)
  | dataIn => rfl
  | count => exact BitVec.setWidth_eq_append (by decide)
  | mode => exact modeWord_eq_append s.blk
  | digestSize => simp only [regValue]; cases s.blk.V <;> rfl
  | blockSize => simp only [regValue]; cases s.blk.V <;> rfl
  | rate => simp only [regValue]; cases s.blk.V <;> rfl
  | capacity => simp only [regValue]; cases s.blk.V <;> rfl
  | errAddr => exact BitVec.setWidth_eq_append (by decide)
  | errData => rfl
  | digest j => exact le32_eq_append _ (by omega)
  | state j => exact le32_eq_append _ (by omega)
  | buf j => exact le32_eq_append _ (by omega)

/-! ### Reading twice (20_memory.md R67), and reading while busy (10_state.md R51) -/

/-- An any32 read is a draw. -/
theorem readValue_of_free {s : State} {a : Offset} (h : readIsFree s.blk a = true) :
    readValue s a = Config.freeBits 32 s.draws := by
  rw [readValue, if_pos h]

/-- An exact read depends on the block alone. -/
theorem readValue_congr {s t : State} {a : Offset} (h : readIsFree s.blk a = false) (hb : t.blk = s.blk) :
    readValue t a = readValue s a := by
  rw [readValue, readValue, hb, h]
  rfl

/-- Settles O21: two reads in a row find the same block, and draw one free value each where R51 says so. -/
theorem readsHaveNoSideEffects : Obligations.ReadsHaveNoSideEffects := by
  unfold Obligations.ReadsHaveNoSideEffects
  refine fun s a h => ⟨_, readValue s a, step_hostReads h, rfl, rfl, fun h2 =>
    ⟨_, _, step_hostReads h2, rfl, rfl, fun hexact => readValue_congr hexact rfl, fun hfree => ?_⟩⟩
  refine ⟨readValue_of_free hfree, (readValue_of_free (s := hostRead a (hostTaken s)) hfree).trans ?_⟩
  rw [hostRead_draws, hostTaken_blk, if_pos hfree]
  rfl

/-- While busy, COUNT and the three windows read any32. -/
theorem readIsFree_of_busy {b : Block} {a : Offset} {r : Reg} (hr : regAt a = some r)
    (h : r = .count ∨ (∃ j, r = .digest j) ∨ (∃ j, r = .state j) ∨ ∃ j, r = .buf j) (hb : b.busy = true) :
    readIsFree b a = true := by
  have hfree : r.busyFree = true := by
    rcases h with rfl | ⟨j, rfl⟩ | ⟨j, rfl⟩ | ⟨j, rfl⟩ <;> rfl
  simp [readIsFree, hr, hb, hfree]

/-- Settles O22: each of the two reads is the draw of the common count. -/
theorem busyReadsRevealNothing : Obligations.BusyReadsRevealNothing := by
  unfold Obligations.BusyReadsRevealNothing
  intro s s' a r hr hkind h h' hb hb' hdraws
  have hf := readIsFree_of_busy hr hkind hb
  have hf' := readIsFree_of_busy hr hkind hb'
  refine ⟨_, _, Config.freeBits 32 s.draws, step_hostReads h, step_hostReads h', ?_, ?_, ?_, rfl⟩
  · rw [hostRead_received, readValue_hostTaken, readValue_of_free hf]
    rfl
  · rw [hostRead_received, readValue_hostTaken, readValue_of_free hf', hdraws]
    rfl
  · rw [hostRead_draws, hostTaken_blk, if_pos hf]
    rfl

end Sys2Proof.Machine
end

section

/-! Reset and power (70_reset_and_hazards.md R230 to R235; 43_facade.md R180): SRESET against the reset edge, the
access a reset edge presents, and the steps the model does not take. -/

namespace Sys2Proof.Machine

/-! ### SRESET and the reset edge (R235) -/

/-- OP 0x0F belongs to SRESET's one word (30_encoding.md R98). -/
theorem illegalWord_of_op_sreset {c : Word} (hop : opField c = 0x0F#8) (hc : c ≠ 0x0000000F#32) :
    illegalWord c = true := by
  cases hd : decode c with
  | error e => exact illegalWord_of_decode_error hd
  | ok i =>
    obtain ⟨-, -, hi, -⟩ := decode_ok_fields hd
    rw [hop] at hi
    have hs : i = .sreset := by cases i <;> simp_all [Instr.op]
    exact absurd (decode_eq_sreset_iff.mp (hs ▸ hd)) hc

/-- Settles O35: both leave the `resetBlock` of the same count of draws. -/
theorem sresetEqualsReset : Obligations.SresetEqualsReset := by
  unfold Obligations.SresetEqualsReset
  exact ⟨fun s a h hr => ⟨_, step_writes_sreset h hr, rfl, rfl, rfl⟩, fun c => illegalWord_of_op_sreset⟩

/-! ### An access under reset (R231) -/

theorem accessUnderReset_write {s : State} {a : Offset} {d : Word} {rest : List HostOp}
    (h : s.host = .wr a d :: rest) : accessUnderReset s = .next (hardReset { s with host := rest }) := by
  rw [accessUnderReset, h]

theorem accessUnderReset_read {s : State} {a : Offset} {rest : List HostOp} (h : s.host = .rd a :: rest) :
    accessUnderReset s = .next (hardReset { s with
      host := rest, received := Config.freeBits 32 s.draws :: s.received, draws := s.draws + 1 }) := by
  rw [accessUnderReset, h]

/-- Settles O36: the write is taken out and no more; the read delivers the draw before the reset's. -/
theorem accessUnderReset_spec : Obligations.AccessUnderReset := by
  unfold Obligations.AccessUnderReset
  refine fun s hn => ⟨fun a d h => ?_, fun a h => ?_⟩
  · obtain ⟨rest, hs⟩ := List.head?_eq_some_iff.mp h
    rw [step_resetWithAccess hn, accessUnderReset_write (s := beginStep .host s) hs, hostTaken, hs]
    rfl
  · obtain ⟨rest, hs⟩ := List.head?_eq_some_iff.mp h
    exact ⟨_, (step_resetWithAccess hn).trans (accessUnderReset_read (s := beginStep .host s) hs), rfl, rfl⟩

/-! ### Where the model stops (R232, 20_memory.md R64) -/

/-- Before the first reset no agent moves (U4). -/
theorem step_beforeFirstReset {s : State} (hw : s.wasReset = false)
    (h : nextTurn s = .host ∨ nextTurn s = .engine) : step s = .fault .beforeFirstReset := by
  rcases h with h | h <;> simp [step, takeTurn, h, hw]

/-- A sub-word store is refused, in the host's turn and under reset (R64, U2). -/
theorem step_narrow_refused {s : State} {size : Narrow} {a : Offset} {d : Word}
    (hh : s.host.head? = some (.wrNarrow size a d)) (h : HostTurn s ∨ nextTurn s = .resetWithAccess) :
    step s = .refused .subWordStore := by
  obtain ⟨rest, hs⟩ := List.head?_eq_some_iff.mp hh
  rcases h with h | h
  · rw [step_hostTurn h]
    simp [hostStep, hs]
  · rw [step_resetWithAccess h]
    simp [accessUnderReset, hs]

/-- Settles O37: each turn of a block before its first reset, and the refused store. -/
theorem whereTheModelStops : Obligations.WhereTheModelStops := by
  unfold Obligations.WhereTheModelStops
  refine fun s => ⟨fun hw => ⟨step_beforeFirstReset hw, fun h => ?_, fun h => ?_⟩,
    fun _ _ _ => step_narrow_refused⟩
  · obtain ⟨t, hstep, -, hreset⟩ := step_resetEdge h
    exact ⟨t, hstep, hreset⟩
  · exact ⟨_, step_powerCycle h, powerUp_wasReset _⟩

end Sys2Proof.Machine
end

section

/-! The writers of S, DV and DG (10_state.md R22, R27), and the invariant of the block (R55, R24, R36): it holds
at reset, every step keeps it, and it lets every step of the two agents go on. -/

namespace Sys2Proof.Machine

/-! ### The writers of S (R22) -/

/-- A register write that changes S is a STATE write to an idle block. -/
theorem writeReg_changes_S {r : Reg} {d : Word} {b : Block} (h : (writeReg r d b).S ≠ b.S) :
    (∃ j, r = .state j) ∧ b.busy = false := by
  rcases writeReg_cases r d b with hw | ⟨-, hw⟩ | ⟨-, hw⟩ | ⟨-, hw⟩ | ⟨k, hw⟩ | ⟨-, -, -, hw⟩ |
    ⟨j, hr, hb, -⟩ | ⟨j, -, -, hw⟩
  case inr.inr.inr.inr.inr.inr.inl => exact ⟨⟨j, hr⟩, hb⟩
  all_goals simp [hw] at h

/-- The completions that change S are INIT's, ABSORB's and PERMUTE's. -/
theorem effectOf_changes_S {i : Instr} {data : Word} {s : State} (hs : i ≠ .sreset)
    (h : (effectOf i data s).blk.S ≠ s.blk.S) :
    (∃ v p, i = .init v p) ∨ (∃ k, i = .absorb k) ∨ i = .permute := by
  cases i with
  | nop => exact absurd rfl h
  | init v p => exact .inl ⟨v, p, rfl⟩
  | absorb k => exact .inr (.inl ⟨k, rfl⟩)
  | final => simp [effectOf, finalEffect] at h
  | permute => exact .inr (.inr rfl)
  | sreset => exact absurd rfl hs

/-- Settles O39: the effects of a step, one by one. -/
theorem stateBytesWriters : Obligations.StateBytesWriters := by
  unfold Obligations.StateBytesWriters
  intro s t ht hne
  have he := stepEffect_of_step ht
  generalize t.blk = b at he hne
  cases he with
  | kept => exact absurd rfl hne
  | rejected => simp at hne
  | wrote a d r h hr =>
    obtain ⟨⟨j, rfl⟩, hb⟩ := writeReg_changes_S hne
    exact .inr (.inr (.inr (.inr ⟨a, j, d, h, hr, hb⟩)))
  | accepted => simp at hne
  | completed i data h hs =>
    rcases effectOf_changes_S (s := engineTaken s) hs hne with ⟨v, p, rfl⟩ | ⟨k, rfl⟩ | rfl
    · exact .inr (.inl ⟨v, p, h⟩)
    · exact .inr (.inr (.inl ⟨k, h⟩))
    · exact .inr (.inr (.inr (.inl h)))
  | reset k h => exact .inl h
  | poweredUp h => exact .inl (.inr (.inr (.inl h)))

/-! ### DV and DG (R27) -/

/-- A register write can only clear DV. -/
theorem DV_of_writeReg {r : Reg} {d : Word} {b : Block} (h : (writeReg r d b).DV = true) : b.DV = true := by
  rcases writeReg_cases r d b with hw | ⟨-, hw⟩ | ⟨-, hw⟩ | ⟨-, hw⟩ | ⟨k, hw⟩ | ⟨-, -, -, hw⟩ |
    ⟨j, -, -, hw⟩ | ⟨j, -, -, hw⟩ <;> simp_all

/-- No register write reaches DG or BUSY. -/
theorem writeReg_keeps_DG_busy (r : Reg) (d : Word) (b : Block) :
    (writeReg r d b).DG = b.DG ∧ (writeReg r d b).busy = b.busy := by
  rcases writeReg_cases r d b with hw | ⟨-, hw⟩ | ⟨-, hw⟩ | ⟨-, hw⟩ | ⟨k, hw⟩ | ⟨-, -, -, hw⟩ |
    ⟨j, -, -, hw⟩ | ⟨j, -, -, hw⟩ <;> simp [hw]

/-- The effect of a command other than FINAL keeps DG, and raises no DV. -/
theorem effectOf_keeps_digest {i : Instr} (hs : i ≠ .sreset) (hf : i ≠ .final) (data : Word) (s : State) :
    (effectOf i data s).blk.DG = s.blk.DG ∧ ((effectOf i data s).blk.DV = true → s.blk.DV = true) := by
  cases i with
  | nop => exact ⟨rfl, id⟩
  | init v p => exact ⟨rfl, nofun⟩
  | absorb k => simp [effectOf, absorbEffect]
  | final => exact absurd rfl hf
  | permute => simp [effectOf, permuteEffect]
  | sreset => exact absurd rfl hs

/-- INIT, ABSORB and PERMUTE clear DV. -/
theorem effectOf_clears_DV {i : Instr} (h : (∃ v p, i = .init v p) ∨ (∃ k, i = .absorb k) ∨ i = .permute)
    (data : Word) (s : State) : (effectOf i data s).blk.DV = false := by
  rcases h with ⟨v, p, rfl⟩ | ⟨k, rfl⟩ | rfl
  · rfl
  · simp [effectOf, absorbEffect]
  · simp [effectOf, permuteEffect]

/-- What can raise DV. -/
theorem StepEffect.DV_rises {s : State} {b : Block} (he : StepEffect s b) (hp : nextTurn s ≠ .powerCycle)
    (h0 : s.blk.DV = false) (h1 : b.DV = true) : Completes s .final := by
  cases he with
  | kept => simp [h0] at h1
  | rejected => simp [h0] at h1
  | wrote => simp [DV_of_writeReg h1] at h0
  | accepted => simp [h0] at h1
  | completed i data h hs =>
    by_cases hf : i = .final
    · exact hf ▸ h
    · have hkeep := (effectOf_keeps_digest hs hf data (engineTaken s)).2 h1
      simp [h0] at hkeep
  | reset => simp [Block.reset] at h1
  | poweredUp h => exact absurd h hp

/-- What can change DG. -/
theorem StepEffect.DG_changes {s : State} {b : Block} (he : StepEffect s b) (hne : b.DG ≠ s.blk.DG) :
    ResetsBlock s ∨ Completes s .final := by
  cases he with
  | kept => exact absurd rfl hne
  | rejected => simp at hne
  | wrote => exact absurd (writeReg_keeps_DG_busy ..).1 hne
  | accepted => simp at hne
  | completed i data hc hs =>
    by_cases hf : i = .final
    · exact .inr (hf ▸ hc)
    · exact absurd (effectOf_keeps_digest hs hf data (engineTaken s)).1 hne
  | reset k h => exact .inl h
  | poweredUp h => exact .inl (.inr (.inr (.inl h)))

/-- An accepted write to COUNT, STATE or BUF clears DV. -/
theorem writeReg_clears_DV {b : Block} {a : Offset} {d : Word} {r : Reg} (hr : regAt a = some r)
    (hk : rejection b a d = none) (h : r = .count ∨ (∃ j, r = .state j) ∨ ∃ j, r = .buf j) :
    r ≠ .cmd ∧ (writeReg r d b).DV = false := by
  rcases h with rfl | ⟨j, rfl⟩ | ⟨j, rfl⟩
  · cases hb : b.busy
    · have hd : ¬rb b.V ≤ d.toNat := by simpa [rejection, hr, hb] using hk
      simp [writeReg, writeCount, hb, hd]
    · simp [rejection, hr, hb] at hk
  · have hb : b.busy = false := by simpa [rejection, hr] using hk
    simp [writeReg, writeState, hb]
  · have hb : b.busy = false := by simpa [rejection, hr] using hk
    simp [writeReg, writeBuf, hb]

/-- A completion that clears DV leaves it 0. -/
theorem completes_clears_DV {s t : State} {i : Instr} (h : Completes s i) (ht : step s = .next t)
    (hi : (∃ v p, i = .init v p) ∨ (∃ k, i = .absorb k) ∨ i = .permute) : t.blk.DV = false := by
  obtain ⟨p, -, -, -, hstep⟩ := completes_next h
  cases hstep.symm.trans ht
  exact effectOf_clears_DV hi p.data (engineTaken s)

/-- Settles O40: DV and DG through the effects of a step. -/
theorem digestValidRule : Obligations.DigestValidRule := by
  unfold Obligations.DigestValidRule
  intro s t ht hp
  have he := stepEffect_of_step ht
  refine ⟨he.DV_rises hp, ?_, fun a d r hw hr hk hkind => ?_, he.DG_changes⟩
  · rintro (h | ⟨v, p, h⟩ | ⟨k, h⟩ | h)
    · obtain ⟨k, hk⟩ := resetsBlock_blk h hp ht
      rw [hk]
      rfl
    · exact completes_clears_DV h ht (.inl ⟨v, p, rfl⟩)
    · exact completes_clears_DV h ht (.inr (.inl ⟨k, rfl⟩))
    · exact completes_clears_DV h ht (.inr (.inr rfl))
  · obtain ⟨hc, hDV⟩ := writeReg_clears_DV hr hk hkind
    cases (step_writes_register hw hr hc).symm.trans ht
    exact hDV

/-! ### PEND (R29, R36) -/

theorem pendOk_of_idle {b : Block} (hp : b.pend = none) (hb : b.busy = false) : b.pendOk = true := by
  simp [Block.pendOk, hp, hb]

/-- What BUSY and PEND agreeing says of a busy block: PEND holds a command, one that may run. -/
theorem pendOk_busy {b : Block} (h : b.pendOk = true) (hb : b.busy = true) :
    ∃ p i, b.pend = some p ∧ p.instr = some i ∧ (needsInit i = true → b.inited = true) := by
  unfold Block.pendOk at h
  split at h
  · simp [hb] at h
  · next p hp =>
    split at h
    · next i hi => exact ⟨p, i, hp, hi, fun hn => by simpa [hb, hn] using h⟩
    · simp at h

/-- PEND holds an accepted command as its acceptance left it. -/
theorem pend_instr_of_accepted {i : Instr} (hw : i.wf = true) (hs : i ≠ .sreset) (data : Word) :
    Pend.instr ⟨i.op, i.arg, data⟩ = some i := by
  have hd : decode (Pend.word ⟨i.op, i.arg, data⟩) = .ok i := decode_encode hw
  rw [Pend.instr, hd]
  cases i <;> simp_all

theorem pendOk_acceptCmd {i : Instr} {b : Block} (hw : i.wf = true) (hs : i ≠ .sreset)
    (hn : needsInit i = true → b.inited = true) : (acceptCmd i b).pendOk = true := by
  have hi : Pend.instr ⟨i.op, i.arg, b.dataIn⟩ = some i := pend_instr_of_accepted hw hs b.dataIn
  simp only [Block.pendOk, acceptCmd_pend, hi, acceptCmd_busy, acceptCmd_inited]
  cases hq : needsInit i
  · rfl
  · simp [hn hq]

/-- PEND's condition reads PEND, BUSY and INITED. -/
theorem pendOk_congr {b b' : Block} (h : b.pendOk = true) (hp : b'.pend = b.pend) (hb : b'.busy = b.busy)
    (hi : b'.inited = b.inited) : b'.pendOk = true := by
  simpa only [Block.pendOk, hp, hb, hi] using h

/-! ### The invariant, one operation at a time -/

/-- With DV = 0 only the buffer's count and PEND are left to check. -/
theorem inv_of_DV_false {b : Block} (hn : b.n.toNat < rb b.V) (hp : b.pendOk = true) (hDV : b.DV = false) :
    b.Inv :=
  ⟨hn, hp, fun _ => hDV, fun h => by simp [hDV] at h⟩

/-- The invariant reads the content, BUSY and PEND. -/
theorem Block.Inv.of_sameContent {b b' : Block} (h : b.Inv) (hc : SameContent b b')
    (hp : b'.pendOk = true) : b'.Inv := by
  obtain ⟨hS, hB, hn, hV, hP, hi, hDV, hDG⟩ := hc
  refine ⟨?_, hp, ?_, ?_⟩
  · rw [hn, hV]; exact h.count
  · rw [hi, hDV]; exact h.uninit
  · rw [hDV, hDG, hS, hB, hn, hV, hP]; exact h.digest

theorem inv_resetBlock (k : Nat) : (resetBlock k).Inv :=
  inv_of_DV_false (show 0 < rb .sha3_224 by decide) rfl rfl

theorem Block.Inv.raiseErr {b : Block} (h : b.Inv) (k : ErrKind) (off : Offset) (d : Word) :
    (raiseErr k off d b).Inv :=
  h.of_sameContent (by constructor <;> simp)
    (pendOk_congr h.pend (raiseErr_pend ..) (raiseErr_busy ..) (raiseErr_inited ..))

theorem Block.Inv.acceptCmd {b : Block} (h : b.Inv) {i : Instr} (hw : i.wf = true) (hs : i ≠ .sreset)
    (hn : needsInit i = true → b.inited = true) : (acceptCmd i b).Inv :=
  h.of_sameContent (by constructor <;> rfl) (pendOk_acceptCmd hw hs hn)

/-- A write to a register other than CMD keeps the invariant: COUNT takes only values below rb. -/
theorem Block.Inv.writeReg {b : Block} (h : b.Inv) (r : Reg) (d : Word) : (writeReg r d b).Inv := by
  rcases writeReg_cases r d b with hw | ⟨-, hw⟩ | ⟨-, hw⟩ | ⟨-, hw⟩ | ⟨k, hw⟩ | ⟨-, -, hd, hw⟩ |
    ⟨j, -, -, hw⟩ | ⟨j, -, -, hw⟩ <;> rw [hw]
  · exact h
  · exact h.of_sameContent (by constructor <;> rfl) h.pend
  · exact h.of_sameContent (by constructor <;> rfl) h.pend
  · exact h.of_sameContent (by constructor <;> rfl) h.pend
  · exact h.raiseErr k _ d
  · have hr := (rb_bounds b.V).2
    refine inv_of_DV_false ?_ h.pend rfl
    dsimp only
    rw [BitVec.toNat_setWidth, Nat.mod_eq_of_lt (by omega)]
    exact hd
  · refine inv_of_DV_false ?_ (pendOk_congr h.pend rfl rfl rfl) rfl
    exact h.count
  · refine inv_of_DV_false ?_ (pendOk_congr h.pend rfl rfl rfl) rfl
    exact h.count

/-! ### The invariant at a completion -/

/-- The count of buffered bytes stays below rb (R24). -/
theorem absorbByte_count {b : Block} (h : b.n.toNat < rb b.V) (x : Byte) :
    (absorbByte b x).n.toNat < rb (absorbByte b x).V := by
  rw [absorbByte_V]
  by_cases hf : b.n.toNat + 1 = rb b.V
  · rw [absorbByte_of_full hf]
    exact Nat.zero_lt_of_lt h
  · rw [absorbByte_of_lt (by omega)]
    have := count_succ_toNat h
    dsimp only
    omega

theorem absorbBytes_count {b : Block} (h : b.n.toNat < rb b.V) (m : List Byte) :
    (absorbBytes b m).n.toNat < rb (absorbBytes b m).V := by
  induction m generalizing b with
  | nil => exact h
  | cons x m ih => exact ih (absorbByte_count h x)

/-- A completion keeps the invariant; FINAL runs only where INITED = 1, and leaves the digest it sets DV for. -/
theorem Block.Inv.completed {s : State} (h : s.blk.Inv) {i : Instr} (hs : i ≠ .sreset)
    (hn : needsInit i = true → s.blk.inited = true) (data : Word) :
    (finishCmd (effectOf i data s).blk).Inv := by
  have hp : (finishCmd (effectOf i data s).blk).pendOk = true := pendOk_of_idle rfl rfl
  cases i with
  | nop => exact h.of_sameContent (by constructor <;> rfl) hp
  | init v p => exact inv_of_DV_false (Nat.lt_of_lt_of_le (show 0 < 72 by decide) (rb_bounds v).1) hp rfl
  | absorb k =>
    refine inv_of_DV_false ?_ hp (by simp [effectOf, absorbEffect])
    simpa [effectOf, absorbEffect] using absorbBytes_count h.count (inputBytes k.toNat data)
  | final =>
    have hi := hn rfl
    refine ⟨by simpa [effectOf, finalEffect] using h.count, hp, fun h0 => ?_, fun _ => ?_⟩
    · simp [effectOf, finalEffect, hi] at h0
    · simp [effectOf, finalEffect]
  | permute =>
    refine inv_of_DV_false ?_ hp (by simp [effectOf, permuteEffect])
    simpa [effectOf, permuteEffect] using h.count
  | sreset => exact absurd rfl hs

/-- A pending command is one that may run. -/
theorem Block.Inv.needsInit_of_completes {s : State} (h : s.blk.Inv) {i : Instr} (hc : Completes s i) :
    needsInit i = true → s.blk.inited = true := by
  obtain ⟨p, j, hp, hj, hn⟩ := pendOk_busy h.pend hc.2.1
  have hi := hc.2.2
  rw [hp, Option.bind_some, hj, Option.some.injEq] at hi
  exact hi ▸ hn

/-! ### The invariant along a step -/

/-- A CMD write: rejected, a reset, or an acceptance whose checks let the command in. -/
theorem Block.Inv.cmdWrite {s t : State} (h : s.blk.Inv) {a : Offset} {c : Word} (hw : HostWrites s a c)
    (hr : regAt a = some .cmd) (ht : step s = .next t) : t.blk.Inv := by
  cases hd : decode c with
  | error e =>
    cases (step_writes_illegal hw hr hd).symm.trans ht
    exact h.raiseErr _ _ c
  | ok i =>
    by_cases hs : i = .sreset
    · subst hs
      obtain rfl := decode_eq_sreset_iff.mp hd
      cases (step_writes_sreset hw hr).symm.trans ht
      exact inv_resetBlock _
    · cases (step_issues hw hr hd hs).symm.trans ht
      cases hk : rejection s.blk a c with
      | some k => exact h.raiseErr k _ c
      | none =>
        rw [cmd_rejection_of_decode hr hd hs] at hk
        refine h.acceptCmd (decode_ok_fields hd).1 hs fun hn => ?_
        cases hb : s.blk.busy <;> simp_all

/-- Before the first reset only a reset edge or a power cycle is a step. -/
theorem step_of_not_wasReset {s t : State} (hw : s.wasReset = false) (ht : step s = .next t) :
    (∃ k, t.blk = resetBlock k) ∨ t.wasReset = false := by
  have hstuck := step_beforeFirstReset hw
  cases hn : nextTurn s with
  | host => rw [hstuck (.inl hn)] at ht; cases ht
  | engine => rw [hstuck (.inr hn)] at ht; cases ht
  | reset => exact .inl (resetEdge_blk (.inl hn) ht)
  | resetWithAccess => exact .inl (resetEdge_blk (.inr hn) ht)
  | powerCycle =>
    rw [step_powerCycle hn, Host.Outcome.next.injEq] at ht
    exact .inr (ht ▸ powerUp_wasReset _)

/-- A step of a reset block that meets the invariant leaves one that does, or a power cycle. -/
theorem Block.Inv.step {s t : State} (h : s.blk.Inv) (ht : step s = .next t) :
    t.blk.Inv ∨ t.wasReset = false := by
  have he := stepEffect_of_step ht
  generalize hb : t.blk = b at he
  cases he with
  | kept => exact .inl h
  | rejected a d r k => exact .inl (h.raiseErr k _ d)
  | wrote a d r => exact .inl (h.writeReg r d)
  | accepted a d i hw hr => exact .inl (hb ▸ h.cmdWrite hw hr ht)
  | completed i data hc hs =>
    exact .inl (Block.Inv.completed (s := engineTaken s) h hs (h.needsInit_of_completes hc) data)
  | reset k => exact .inl (inv_resetBlock k)
  | poweredUp hn =>
    rw [step_powerCycle hn, Host.Outcome.next.injEq] at ht
    exact .inr (ht ▸ powerUp_wasReset _)

/-- Settles O43: nothing is buffered, pending or valid after reset. -/
theorem resetMeetsInvariant : Obligations.ResetMeetsInvariant := by
  unfold Obligations.ResetMeetsInvariant
  exact ⟨fun _ => inv_of_DV_false (by decide) rfl rfl, rfl⟩

/-- Settles O44: the invariant by the effects of a step, from a reset block or before the first reset. -/
theorem stepKeepsInvariant : Obligations.StepKeepsInvariant := by
  unfold Obligations.StepKeepsInvariant
  intro s t hs ht hw
  cases hr : s.wasReset with
  | true => exact (Block.Inv.step (hs hr) ht).resolve_right (by simp [hw])
  | false =>
    obtain ⟨k, hk⟩ := (step_of_not_wasReset hr ht).resolve_right (by simp [hw])
    exact hk ▸ inv_resetBlock k

/-! ### Progress (20_memory.md R61, R66) -/

/-- In the engine's turn a busy block has a command to complete. -/
theorem Block.Inv.completes {s : State} (h : s.blk.Inv) (ht : EngineTurn s) (hb : s.blk.busy = true) :
    ∃ i, Completes s i := by
  obtain ⟨p, i, hp, hi, -⟩ := pendOk_busy h.pend hb
  exact ⟨i, ht, hb, by rw [hp]; exact hi⟩

/-- Every host access but a sub-word store is a step. -/
theorem step_hostTurn_next {s : State} (ht : HostTurn s)
    (h : ∀ size a d, s.host.head? ≠ some (.wrNarrow size a d)) : ∃ t, step s = .next t := by
  rcases hl : s.host with _ | ⟨o, rest⟩
  · exact ⟨_, step_hostIdle ht hl⟩
  · cases o with
    | rd a => exact ⟨_, step_hostReads ⟨ht, by rw [hl]; rfl⟩⟩
    | wr a d =>
      obtain ⟨t, hw⟩ := hostWrite_next a d (hostTaken s)
      exact ⟨t, (step_hostWrites ⟨ht, by rw [hl]; rfl⟩).trans hw⟩
    | wrNarrow size a d => exact absurd (by rw [hl]; rfl) (h size a d)
    | wait => exact ⟨_, step_hostWaits ht hl⟩

/-- Settles O42: turn by turn, the engine's by the invariant. -/
theorem noStepIsStuck : Obligations.NoStepIsStuck := by
  unfold Obligations.NoStepIsStuck
  intro s hs hw
  have hcomplete : nextTurn s = .engine → s.blk.busy = true →
      ∃ t, step s = .next t ∧ t.blk.busy = false ∧ t.blk.done = true ∧ t.blk.pend = none := by
    intro hn hb
    obtain ⟨i, hi⟩ := (hs hw).completes ⟨hw, hn⟩ hb
    obtain ⟨p, -, -, -, hstep⟩ := completes_next hi
    exact ⟨_, hstep, rfl, rfl, rfl⟩
  refine ⟨fun h => ?_, hcomplete⟩
  cases hn : nextTurn s with
  | host => exact step_hostTurn_next ⟨hw, hn⟩ h
  | engine =>
    cases hb : s.blk.busy with
    | true => exact (hcomplete hn hb).imp fun _ ht => ht.1
    | false => exact ⟨_, step_engineIdle ⟨hw, hn⟩ hb⟩
  | reset => exact ⟨_, step_reset hn⟩
  | resetWithAccess => exact (step_resetEdge (.inr ⟨hn, h⟩)).imp fun _ ht => ht.1
  | powerCycle => exact ⟨_, step_powerCycle hn⟩

end Sys2Proof.Machine
end

section

/-! The permutation (41_permutation.md): the two views of the state, the tables, the merged lane move, and f as a
bijection, step mapping by step mapping. -/

namespace Sys2Proof.Machine

/-! ### The lane view and the byte view (R112) -/

/-- A byte of a lane's low half. -/
theorem extractLsb'_low_byte (a : Lane) {j : Nat} (hj : j < 4) :
    (a.extractLsb' 0 32).extractLsb' (8 * j) 8 = a.extractLsb' (8 * j) 8 := by
  apply BitVec.eq_of_getLsbD_eq
  intro k hk
  simp [hk, show 8 * j + k < 32 by omega]

/-- A byte of a lane's high half. -/
theorem extractLsb'_high_byte (a : Lane) {j : Nat} (hj : j < 4) :
    (a.extractLsb' 32 32).extractLsb' (8 * j) 8 = a.extractLsb' (8 * (j + 4)) 8 := by
  apply BitVec.eq_of_getLsbD_eq
  intro k hk
  simp [hk, show 8 * j + k < 32 by omega, show 32 + (8 * j + k) = 8 * (j + 4) + k by omega]

/-- Byte j of `LE64(b[i..i+8))` is `b[i + j]`. -/
theorem le64_byte {m : Nat} (b : Bytes m) (i : Nat) {j : Nat} (hj : j < 8) :
    (le64 b i).extractLsb' (8 * j) 8 = b.getD (i + j) 0 := by
  by_cases h4 : j < 4
  · rw [← extractLsb'_low_byte _ h4, le64_low]
    exact wordByte_le32 b i h4
  · obtain ⟨k, rfl⟩ := Nat.exists_eq_add_of_le' (Nat.le_of_not_lt h4)
    have hk : k < 4 := by omega
    rw [← extractLsb'_high_byte _ hk, le64_high, show i + (k + 4) = i + 4 + k by omega]
    exact wordByte_le32 b (i + 4) hk

/-- Two lanes with the same eight bytes are the same lane. -/
theorem lane_ext_bytes {a a' : Lane} (h : ∀ j < 8, a.extractLsb' (8 * j) 8 = a'.extractLsb' (8 * j) 8) :
    a = a' := by
  apply BitVec.eq_of_getLsbD_eq
  intro k hk
  have hb := congrArg (fun x => x.getLsbD (k % 8)) (h (k / 8) (by omega))
  simp only [BitVec.getLsbD_extractLsb', show k % 8 < 8 by omega, decide_true, Bool.true_and] at hb
  rwa [show 8 * (k / 8) + k % 8 = k by omega] at hb

theorem lanesOf_getElem (S : Bytes 200) {k : Nat} (hk : k < 25) : (lanesOf S)[k] = le64 S (8 * k) := by
  rw [lanesOf, Vector.getElem_ofFn]

theorem bytesOf_getD (A : Lanes) {i : Nat} (hi : i < 200) :
    (bytesOf A).getD i 0 = (A.getD (i / 8) 0).extractLsb' (8 * (i % 8)) 8 := by
  rw [getD_vector, dif_pos hi, bytesOf, Vector.getElem_ofFn]

theorem bytesOf_lanesOf (S : Bytes 200) : bytesOf (lanesOf S) = S := by
  apply Vector.ext
  intro i hi
  have hbyte := bytesOf_getD (lanesOf S) hi
  rw [getD_vector, dif_pos hi] at hbyte
  rw [hbyte, getD_vector, dif_pos (by omega), lanesOf_getElem S (by omega), le64_byte S _ (by omega),
    Nat.div_add_mod, getD_vector, dif_pos hi]

theorem lanesOf_bytesOf (A : Lanes) : lanesOf (bytesOf A) = A := by
  apply Vector.ext
  intro k hk
  rw [lanesOf_getElem _ hk]
  refine lane_ext_bytes fun j hj => ?_
  rw [le64_byte _ _ hj, bytesOf_getD A (by omega), show (8 * k + j) / 8 = k by omega,
    show (8 * k + j) % 8 = j by omega, getD_vector, dif_pos hk]

/-- Settles O46: byte by byte, and lane by lane. -/
theorem laneViewInverse : Obligations.LaneViewInverse := by
  unfold Obligations.LaneViewInverse
  exact ⟨bytesOf_lanesOf, lanesOf_bytesOf⟩

/-! ### The tables (R115, R120) -/

/-- Settles O47: the walk, and the shift register's 255-bit cycle, over the tables' 24 entries. -/
theorem tablesMeetFormulas : Obligations.TablesMeetFormulas := by
  unfold Obligations.TablesMeetFormulas
  exact ⟨rfl, by decide, by decide, by decide⟩

/-! ### Lanes and their coordinates (00_scope.md R11) -/

/-- Coordinates count modulo 5. -/
theorem lane_congr (A : Lanes) {x x' y y' : Nat} (hx : x % 5 = x' % 5) (hy : y % 5 = y' % 5) :
    lane A x y = lane A x' y' := by
  rw [lane, lane, hx, hy]

theorem lane_buildLanes (g : Nat → Nat → Lane) (x y : Nat) : lane (buildLanes g) x y = g (x % 5) (y % 5) := by
  have hk : x % 5 + 5 * (y % 5) < 25 := by omega
  rw [lane, getD_vector, dif_pos hk, buildLanes, Vector.getElem_ofFn]
  congr 1 <;> dsimp only <;> omega

/-- Two lane arrays with the same lanes are the same array. -/
theorem lanes_ext {A A' : Lanes} (h : ∀ x y, lane A x y = lane A' x y) : A = A' := by
  apply Vector.ext
  intro k hk
  have hl := h (k % 5) (k / 5)
  rw [lane, lane, show k % 5 % 5 + 5 * (k / 5 % 5) = k by omega, getD_vector, getD_vector, dif_pos hk,
    dif_pos hk] at hl
  exact hl

/-! ### π and the merged lane move (R116, R121) -/

theorem lane_piStep (A : Lanes) (x y : Nat) : lane (piStep A) x y = lane A (x + 3 * y) x := by
  rw [piStep, lane_buildLanes]
  exact lane_congr A (by omega) (by omega)

/-- π in its other form. -/
theorem lane_piStep_move (A : Lanes) (x y : Nat) : lane (piStep A) y (2 * x + 3 * y) = lane A x y := by
  rw [lane_piStep]
  exact lane_congr A (by omega) rfl

theorem lane_rho (A : Lanes) (x y : Nat) : lane (rho A) x y = rot (lane A x y) (rhoOffset (x % 5) (y % 5)) := by
  rw [rho, rhoWith, lane_buildLanes, lane_congr A (Nat.mod_mod x 5) (Nat.mod_mod y 5)]

theorem lane_chi (A : Lanes) (x y : Nat) :
    lane (chi A) x y = lane A x y ^^^ (~~~(lane A (x + 1) y) &&& lane A (x + 2) y) := by
  rw [chi, lane_buildLanes, lane_congr A (Nat.mod_mod x 5) (Nat.mod_mod y 5),
    lane_congr A (x := x % 5 + 1) (x' := x + 1) (by omega) (Nat.mod_mod y 5),
    lane_congr A (x := x % 5 + 2) (x' := x + 2) (by omega) (Nat.mod_mod y 5)]

/-- ρ and π together move lane (x, y), rotated, to (y, 2x + 3y). -/
theorem lane_piStep_rho {A Bm : Lanes}
    (h : ∀ x y : Fin 5,
      lane Bm y.val (2 * x.val + 3 * y.val) = rot (lane A x.val y.val) (rhoOffset x.val y.val))
    (x y : Nat) : lane (piStep (rho A)) x y = lane Bm x y := by
  have hxy := h ⟨(x + 3 * y) % 5, by omega⟩ ⟨x % 5, by omega⟩
  dsimp only at hxy
  rw [lane_piStep, lane_rho, lane_congr A (Nat.mod_mod (x + 3 * y) 5).symm (Nat.mod_mod x 5).symm, ← hxy]
  exact lane_congr Bm (Nat.mod_mod x 5) (by omega)

/-- Settles O48: the move of π, and χ on the lanes moved. -/
theorem mergedLaneMove : Obligations.MergedLaneMove := by
  unfold Obligations.MergedLaneMove
  refine ⟨fun A x y => lane_piStep_move A x.val y.val, fun A Bm h x y => ?_⟩
  rw [lane_chi, lane_piStep_rho h, lane_piStep_rho h, lane_piStep_rho h]

/-! ### Each step mapping is injective (R111) -/

/-- A full turn is no rotation. -/
theorem rot_64 (a : Lane) : rot a 64 = a := by
  apply BitVec.eq_of_getLsbD_eq
  intro k hk
  rw [getLsbD_rot _ hk, if_neg (by omega), Nat.sub_self, Nat.zero_add]

theorem rot_injective {n : Nat} (hn : n ≤ 64) {a a' : Lane} (h : rot a n = rot a' n) : a = a' := by
  have h64 := congrArg (fun x => rot x (64 - n)) h
  rwa [rot_rot _ (by omega), rot_rot _ (by omega), Nat.add_sub_cancel' hn, rot_64, rot_64] at h64

/-- Rotation goes through XOR. -/
theorem rot_xor (a b : Lane) (n : Nat) : rot (a ^^^ b) n = rot a n ^^^ rot b n := by
  apply BitVec.eq_of_getLsbD_eq
  intro k hk
  rw [BitVec.getLsbD_xor, getLsbD_rot _ hk, getLsbD_rot _ hk, getLsbD_rot _ hk]
  split <;> exact BitVec.getLsbD_xor

theorem rho_injective : Function.Injective rho := by
  intro A A' h
  refine lanes_ext fun x y => ?_
  have hlt : rhoOffset (x % 5) (y % 5) < 64 := by
    have hk := rhoOffset_lt ⟨x % 5 + 5 * (y % 5), by omega⟩
    rwa [show (x % 5 + 5 * (y % 5)) % 5 = x % 5 by omega,
      show (x % 5 + 5 * (y % 5)) / 5 = y % 5 by omega] at hk
  have hl := congrArg (fun B => lane B x y) h
  simp only [lane_rho] at hl
  exact rot_injective hlt.le hl

theorem piStep_injective : Function.Injective piStep := by
  intro A A' h
  refine lanes_ext fun x y => ?_
  rw [← lane_piStep_move A, ← lane_piStep_move A', h]

/-- χ on one bit of a row of five, undone. -/
theorem chi_bit_inverse (a0 a1 a2 a3 a4 : Bool) :
    let b0 := a0 ^^ (!a1 && a2)
    let b1 := a1 ^^ (!a2 && a3)
    let b2 := a2 ^^ (!a3 && a4)
    let b3 := a3 ^^ (!a4 && a0)
    let b4 := a4 ^^ (!a0 && a1)
    a0 = (b0 ^^ (!b1 && (b2 ^^ (!b3 && b4)))) := by
  revert a0 a1 a2 a3 a4
  decide

/-- χ on the lanes of a row, undone. -/
theorem chi_row_inverse (A : Lanes) (x y : Nat) :
    lane A x y = lane (chi A) x y ^^^ (~~~(lane (chi A) (x + 1) y) &&&
      (lane (chi A) (x + 2) y ^^^ (~~~(lane (chi A) (x + 3) y) &&& lane (chi A) (x + 4) y))) := by
  have h5 : lane A (x + 3 + 2) y = lane A x y := lane_congr A (by omega) rfl
  have h6 : lane A (x + 4 + 2) y = lane A (x + 1) y := lane_congr A (by omega) rfl
  rw [lane_chi, lane_chi, lane_chi, lane_chi, lane_chi, h5, h6]
  apply BitVec.eq_of_getLsbD_eq
  intro k hk
  have hbit := chi_bit_inverse ((lane A x y).getLsbD k) ((lane A (x + 1) y).getLsbD k)
    ((lane A (x + 2) y).getLsbD k) ((lane A (x + 3) y).getLsbD k) ((lane A (x + 4) y).getLsbD k)
  simpa [hk, Nat.add_assoc] using hbit

theorem chi_injective : Function.Injective chi := by
  intro A A' h
  refine lanes_ext fun x y => ?_
  rw [chi_row_inverse A, chi_row_inverse A', h]

/-- ι undoes itself. -/
theorem iotaStep_iotaStep (A : Lanes) (i : Nat) : iotaStep (iotaStep A i) i = A := by
  apply Vector.ext
  intro k hk
  by_cases hk0 : k = 0
  · subst hk0
    simp [iotaStep, lane, getD_vector]
  · simp [iotaStep, Ne.symm hk0]

theorem iotaStep_injective (i : Nat) : Function.Injective fun A => iotaStep A i :=
  Function.LeftInverse.injective (g := fun A => iotaStep A i) fun A => iotaStep_iotaStep A i

/-! ### θ is injective

θ adds D to every lane of a column, and so D, an odd number of times, to the column parities C. The difference `c`
of the parities of two arrays with one image therefore satisfies `c[x+1] + c[x] = ROT(c[x+2], 1)`. Doubling the
step six times turns the rotation into a full turn, and what is left has only the solution zero. -/

theorem thetaC_congr (A : Lanes) {x x' : Nat} (h : x % 5 = x' % 5) : thetaC A x = thetaC A x' := by
  simp only [thetaC, lane_congr A h rfl]

theorem lane_theta (A : Lanes) (x y : Nat) : lane (theta A) x y = lane A x y ^^^ thetaD rot A x := by
  rw [theta, thetaWith, lane_buildLanes, lane_congr A (Nat.mod_mod x 5) (Nat.mod_mod y 5), thetaD, thetaD,
    thetaC_congr A (x := x % 5 + 4) (x' := x + 4) (by omega),
    thetaC_congr A (x := x % 5 + 1) (x' := x + 1) (by omega)]

/-- θ adds D to the parity of each column. -/
theorem thetaC_theta (A : Lanes) (x : Nat) : thetaC (theta A) x = thetaC A x ^^^ thetaD rot A x := by
  simp only [thetaC, lane_theta]
  generalize thetaD rot A x = D
  apply BitVec.eq_of_getLsbD_eq
  intro k hk
  simp only [BitVec.getLsbD_xor]
  cases D.getLsbD k <;> simp

/-- A difference of parities that θ hides: a relation between three columns. -/
def HiddenParity (m : Nat) (c : Nat → Lane) : Prop := ∀ x, c (x + m) ^^^ c x = rot (c (x + 2 * m)) m

/-- The relation at a step gives it at twice the step. -/
theorem HiddenParity.double {m : Nat} {c : Nat → Lane} (h : HiddenParity m c) (hm : m + m ≤ 64) :
    HiddenParity (2 * m) c := by
  intro x
  calc c (x + 2 * m) ^^^ c x
      = (c (x + m + m) ^^^ c (x + m)) ^^^ (c (x + m) ^^^ c x) := by
        rw [BitVec.xor_assoc, ← BitVec.xor_assoc (c (x + m)), BitVec.xor_self, BitVec.zero_xor,
          show x + m + m = x + 2 * m by omega]
    _ = rot (c (x + m + 2 * m)) m ^^^ rot (c (x + 2 * m)) m := by rw [h (x + m), h x]
    _ = rot (c (x + 2 * m + m) ^^^ c (x + 2 * m)) m := by
        rw [rot_xor, show x + m + 2 * m = x + 2 * m + m by omega]
    _ = rot (c (x + 2 * (2 * m))) (2 * m) := by
        rw [h (x + 2 * m), rot_rot _ hm, show x + 2 * m + 2 * m = x + 2 * (2 * m) by omega,
          show m + m = 2 * m by omega]

/-- Five bits, each the sum of two neighbours, are zero. -/
theorem bits_eq_false (b0 b1 b2 b3 b4 : Bool) (h0 : (b4 ^^ b0) = b3) (h1 : (b0 ^^ b1) = b4)
    (h2 : (b1 ^^ b2) = b0) (h3 : (b2 ^^ b3) = b1) (h4 : (b3 ^^ b4) = b2) : b0 = false := by
  revert b0 b1 b2 b3 b4
  decide

/-- θ hides no difference of parities but zero. -/
theorem HiddenParity.eq_zero {c : Nat → Lane} (h : HiddenParity 1 c)
    (hc : ∀ {x y}, x % 5 = y % 5 → c x = c y) (x : Nat) : c x = 0#64 := by
  have h64 : HiddenParity 64 c := (((((h.double (by decide)).double (by decide)).double (by decide)).double
    (by decide)).double (by decide)).double (by decide)
  have hsum : ∀ {i j l}, i % 5 = (j + 4) % 5 → l % 5 = (j + 3) % 5 → c i ^^^ c j = c l := by
    intro i j l hi hl
    have hj := h64 j
    rwa [rot_64, hc (show (j + 64) % 5 = i % 5 by omega), hc (show (j + 2 * 64) % 5 = l % 5 by omega)] at hj
  apply BitVec.eq_of_getLsbD_eq
  intro k hk
  have hbit : ∀ {i j l}, i % 5 = (j + 4) % 5 → l % 5 = (j + 3) % 5 →
      ((c i).getLsbD k ^^ (c j).getLsbD k) = (c l).getLsbD k :=
    fun hi hl => hsum hi hl ▸ BitVec.getLsbD_xor.symm
  rw [BitVec.getLsbD_zero]
  exact bits_eq_false _ _ _ _ _ (hbit (i := x + 4) (j := x) (l := x + 3) rfl rfl)
    (hbit (j := x + 1) (by omega) rfl) (hbit (j := x + 2) (by omega) (by omega))
    (hbit (j := x + 3) (by omega) (by omega)) (hbit (j := x + 4) (by omega) (by omega))

/-- Two sums of three that agree, regrouped into their differences. -/
theorem xor_differences {p q u p' q' u' : Lane} (h : p ^^^ (q ^^^ u) = p' ^^^ (q' ^^^ u')) :
    p ^^^ p' ^^^ (q ^^^ q') = u ^^^ u' := by
  have hbits : ∀ a b c a' b' c' : Bool, (a ^^ (b ^^ c)) = (a' ^^ (b' ^^ c')) →
      (a ^^ a' ^^ (b ^^ b')) = (c ^^ c') := by decide
  apply BitVec.eq_of_getLsbD_eq
  intro k hk
  have hk := congrArg (fun a => a.getLsbD k) h
  simp only [BitVec.getLsbD_xor] at hk ⊢
  exact hbits _ _ _ _ _ _ hk

/-- Arrays with one image under θ have the same column parities. -/
theorem thetaC_eq_of_theta_eq {A A' : Lanes} (h : theta A = theta A') (x : Nat) :
    thetaC A x = thetaC A' x := by
  have hhid : HiddenParity 1 fun x => thetaC A x ^^^ thetaC A' x := by
    intro x
    have hx : thetaC A (x + 1) ^^^ thetaD rot A (x + 1) = thetaC A' (x + 1) ^^^ thetaD rot A' (x + 1) := by
      rw [← thetaC_theta, ← thetaC_theta, h]
    rw [thetaD, thetaD, thetaC_congr A (x := x + 1 + 4) (x' := x) (by omega),
      thetaC_congr A' (x := x + 1 + 4) (x' := x) (by omega), show x + 1 + 1 = x + 2 * 1 by omega] at hx
    dsimp only
    rw [rot_xor]
    exact xor_differences hx
  have hzero := hhid.eq_zero (fun hxy => by rw [thetaC_congr A hxy, thetaC_congr A' hxy]) x
  exact BitVec.xor_eq_zero_iff.mp hzero

theorem theta_injective : Function.Injective theta := by
  intro A A' h
  have hC := thetaC_eq_of_theta_eq h
  refine lanes_ext fun x y => ?_
  have hl := congrArg (fun B => lane B x y) h
  simp only [lane_theta, thetaD, hC] at hl
  exact (BitVec.xor_left_inj _).mp hl

/-! ### f is a bijection (R111) -/

theorem keccakRound_injective (i : Nat) : Function.Injective fun A => keccakRound A i :=
  (iotaStep_injective i).comp (chi_injective.comp (piStep_injective.comp (rho_injective.comp theta_injective)))

/-- Rounds in a row are injective, by the list of their numbers. -/
theorem foldl_keccakRound_injective (l : List Nat) : Function.Injective (l.foldl keccakRound) := by
  induction l with
  | nil => exact Function.injective_id
  | cons i l ih => exact ih.comp (keccakRound_injective i)

theorem keccakF_injective : Function.Injective keccakF := by
  intro S S' h
  have hrounds : keccakRounds (lanesOf S) = keccakRounds (lanesOf S') :=
    Function.LeftInverse.injective lanesOf_bytesOf h
  have hlanes : lanesOf S = lanesOf S' := foldl_keccakRound_injective _ hrounds
  exact Function.LeftInverse.injective bytesOf_lanesOf hlanes

/-- There are finitely many 200-byte states. -/
theorem finite_state_bytes : Finite (Bytes 200) := by
  refine Finite.of_injective (fun (S : Bytes 200) (i : Fin 200) => S[i].toFin) fun S S' h => ?_
  apply Vector.ext
  intro i hi
  exact BitVec.eq_of_toFin_eq (congrFun h ⟨i, hi⟩)

/-- Settles O50: f is injective, and the 200-byte states are finitely many. -/
theorem keccakFBijective : Obligations.KeccakFBijective := by
  unfold Obligations.KeccakFBijective
  have := finite_state_bytes
  exact Finite.injective_iff_bijective.mp keccakF_injective

/-! ### Absorbing into the rate alone (42_sponge.md R149) -/

theorem xorBlock_getElem {r : Nat} (X : Bytes 200) (blk : Bytes r) (i : Fin 200) :
    (xorBlock X blk)[i] = if i.val < r then X[i] ^^^ blk.getD i.val 0 else X[i] := by
  simp [xorBlock]

/-- Settles O51: `xorBlock` byte by byte, from rb on and below it. -/
theorem capacityIsolation : Obligations.CapacityIsolation := by
  unfold Obligations.CapacityIsolation
  refine fun V X blk => ⟨rfl, fun i hi => ?_, fun i hi => ?_⟩
  · rw [xorBlock_getElem, if_neg (by omega)]
  · rw [xorBlock_getElem, if_pos hi]

end Sys2Proof.Machine
end

section

/-! Runs of host programs under a schedule of the two agents (20_memory.md R66; 30_encoding.md R104): what one
access of an idle block's host comes to, however many turns pass before it, and the end of WAIT. -/

namespace Sys2Proof.Machine

/-! ### Reaching a state -/

theorem Reaches.refl (s : State) : Reaches s s := ⟨0, rfl⟩

/-- A run whose first step goes on. -/
theorem run_of_step {M : Host.Core} {s t : M.State} (h : M.step s = .next t) (k : Nat) :
    M.run (k + 1) s = M.run k t := by
  rw [Host.Core.run, h]

/-- A run that goes on takes its first step. -/
theorem step_of_run {M : Host.Core} {s u : M.State} {k : Nat} (h : M.run (k + 1) s = .next u) :
    ∃ t, M.step s = .next t ∧ M.run k t = .next u := by
  rw [Host.Core.run] at h
  split at h
  · next t ht => exact ⟨t, ht, h⟩
  · cases h
  · cases h

theorem Reaches.head {s t u : State} (h : step s = .next t) (hr : Reaches t u) : Reaches s u := by
  obtain ⟨k, hk⟩ := hr
  exact ⟨k + 1, (run_of_step (M := core) h k).trans hk⟩

theorem Reaches.trans {s t u : State} (hst : Reaches s t) (htu : Reaches t u) : Reaches s u := by
  obtain ⟨k, hk⟩ := hst
  induction k generalizing s with
  | zero => cases hk; exact htu
  | succ k ih =>
    obtain ⟨v, hv, hrun⟩ := step_of_run (M := core) hk
    exact (ih hrun).head hv

theorem Reaches.single {s t : State} (h : step s = .next t) : Reaches s t := (Reaches.refl t).head h

/-! ### The turns of an idle block -/

/-- An idle block whose host has `prog` left to run, under the two agents. -/
structure AtProgram (s : State) (prog : List HostOp) : Prop where
  wasReset : s.wasReset = true
  idle : s.blk.busy = false
  host : s.host = prog
  agents : AgentsOnly s.sched

theorem AgentsOnly.tail {l : List Turn} (h : AgentsOnly l) : AgentsOnly l.tail :=
  fun t ht => h t (List.mem_of_mem_tail ht)

/-- With the agents alone, the next turn is one of theirs. -/
theorem nextTurn_of_agents {s : State} (h : AgentsOnly s.sched) :
    nextTurn s = .host ∨ nextTurn s = .engine := by
  cases hs : s.sched with
  | nil => cases hb : s.blk.busy <;> simp [nextTurn, hs, hb]
  | cons t l => simpa [nextTurn, hs] using h t (by simp [hs])

theorem withProgram_atProgram {s : State} (h : Ready s) (prog : List HostOp) {sched : List Turn}
    (hsched : AgentsOnly sched) : AtProgram (withProgram s prog sched) prog :=
  ⟨h.1, h.2, rfl, hsched⟩

/-- While the block is idle the engine's turns pass, until the host's next turn: nothing has changed but the
schedule. -/
theorem AtProgram.reaches_hostTurn {s : State} {prog : List HostOp} (h : AtProgram s prog) :
    ∃ t, Reaches s t ∧ AtProgram t prog ∧ HostTurn t ∧ t.blk = s.blk ∧ t.received = s.received := by
  generalize hl : s.sched = l
  induction l generalizing s with
  | nil => exact ⟨s, .refl s, h, ⟨h.wasReset, by simp [nextTurn, hl, h.idle]⟩, rfl, rfl⟩
  | cons turn l ih =>
    rcases nextTurn_of_agents h.agents with hn | hn
    · exact ⟨s, .refl s, h, ⟨h.wasReset, hn⟩, rfl, rfl⟩
    · have hstep := step_engineIdle ⟨h.wasReset, hn⟩ h.idle
      have hpass : AtProgram (engineTaken s) prog := ⟨h.wasReset, h.idle, h.host, h.agents.tail⟩
      obtain ⟨t, hr, ht, hturn, hblk, hrec⟩ := ih hpass (by rw [engineTaken_sched, hl]; rfl)
      exact ⟨t, hr.head hstep, ht, hturn, hblk, hrec⟩

/-! ### One access of an idle block's host -/

/-- A read delivers the register's value and leaves the block (20_memory.md R61, R67). -/
theorem AtProgram.read {s : State} {r : Reg} {rest : List HostOp} (h : AtProgram s (rdReg r :: rest)) :
    ∃ t, Reaches s t ∧ AtProgram t rest ∧ t.blk = s.blk ∧
      t.received = regValue s.blk r :: s.received := by
  obtain ⟨u, hr, hu, hturn, hblk, hrec⟩ := h.reaches_hostTurn
  have hread : HostReads u r.offset := ⟨hturn, by rw [hu.host]; rfl⟩
  have hstep := step_reads_register hread (regAt_offset r) (.inl hu.idle)
  refine ⟨_, hr.trans (.single hstep), ⟨hu.wasReset, hu.idle, ?_, hu.agents.tail⟩, hblk, ?_⟩
  · rw [hostTaken_host, hu.host]
    rfl
  · rw [hblk, hrec]

/-- A write to a register other than CMD takes its effect on the block (20_memory.md R65). -/
theorem AtProgram.write {s : State} {r : Reg} {d : Word} {rest : List HostOp} (hc : r ≠ .cmd)
    (h : AtProgram s (wrReg r d :: rest)) :
    ∃ t, Reaches s t ∧ AtProgram t rest ∧ t.blk = writeReg r d s.blk ∧ t.received = s.received := by
  obtain ⟨u, hr, hu, hturn, hblk, hrec⟩ := h.reaches_hostTurn
  have hwrite : HostWrites u r.offset d := ⟨hturn, by rw [hu.host]; rfl⟩
  have hstep := step_writes_register hwrite (regAt_offset r) hc
  refine ⟨_, hr.trans (.single hstep),
    ⟨hu.wasReset, (writeReg_keeps_DG_busy r d u.blk).2.trans hu.idle, ?_, hu.agents.tail⟩, ?_, hrec⟩
  · rw [hostTaken_host, hu.host]
    rfl
  · rw [← hblk]

/-! ### WAIT (30_encoding.md R104, R105) -/

theorem readValue_status (s : State) : readValue s Reg.status.offset = statusWord s.blk := by
  have hfree : readIsFree s.blk Reg.status.offset = false := by
    rw [readIsFree, regAt_offset]
    exact Bool.and_false _
  rw [readValue, hfree, regAt_offset]
  rfl

theorem statusWord_busy (b : Block) : (statusWord b).getLsbD 0 = b.busy := by
  rw [statusWord_getLsbD b (by decide)]
  simp

/-- A poll leaves WAIT exactly when it finds BUSY = 0. -/
theorem step_polls {s : State} {rest : List HostOp} (ht : HostTurn s) (hl : s.host = .wait :: rest) :
    step s = .next { beginStep .host s with host := if s.blk.busy then .wait :: rest else rest } := by
  rw [step_hostWaits ht hl, readValue_status, pollStatus, statusWord_busy]
  cases s.blk.busy
  · simp [beginStep, hl]
  · simp [beginStep, hl]

/-- On an idle block WAIT ends at its first poll. -/
theorem AtProgram.wait {s : State} {rest : List HostOp} (h : AtProgram s (.wait :: rest)) :
    ∃ t, Reaches s t ∧ AtProgram t rest ∧ t.blk = s.blk ∧ t.received = s.received := by
  obtain ⟨u, hr, hu, hturn, hblk, hrec⟩ := h.reaches_hostTurn
  have hstep := step_polls hturn hu.host
  exact ⟨_, hr.trans (.single hstep), ⟨hu.wasReset, hu.idle, by simp [hu.idle], hu.agents.tail⟩, hblk, hrec⟩

/-- A busy block with a command pending, whose host polls, under the two agents. -/
structure Pending (s : State) (p : Pend) (i : Instr) (rest : List HostOp) : Prop where
  wasReset : s.wasReset = true
  busy : s.blk.busy = true
  pend : s.blk.pend = some p
  instr : p.instr = some i
  host : s.host = .wait :: rest
  agents : AgentsOnly s.sched

/-- The effect of a command leaves the agents and their schedule. -/
theorem effectOf_keeps_agents (i : Instr) (data : Word) (s : State) :
    (effectOf i data s).wasReset = s.wasReset ∧ (effectOf i data s).host = s.host ∧
      (effectOf i data s).sched = s.sched ∧ (effectOf i data s).received = s.received := by
  cases i with
  | nop => exact ⟨rfl, rfl, rfl, rfl⟩
  | init v p => exact ⟨rfl, rfl, rfl, rfl⟩
  | absorb k => simp [effectOf, absorbEffect]
  | final => simp [effectOf, finalEffect]
  | permute => simp [effectOf, permuteEffect]
  | sreset => exact ⟨rfl, rfl, rfl, rfl⟩

/-- In its turn the engine completes the pending command. -/
theorem Pending.complete {s : State} {p : Pend} {i : Instr} {rest : List HostOp} (h : Pending s p i rest)
    (hn : nextTurn s = .engine) :
    ∃ t, step s = .next t ∧ AtProgram t (.wait :: rest) ∧ t.received = s.received ∧
      t.blk = finishCmd (effectOf i p.data (engineTaken s)).blk := by
  have hc : Completes s i := ⟨⟨h.wasReset, hn⟩, h.busy, by rw [h.pend]; exact h.instr⟩
  obtain ⟨q, hq, -, -, hstep⟩ := completes_next hc
  cases h.pend.symm.trans hq
  obtain ⟨hwas, hhost, hsched, hrec⟩ := effectOf_keeps_agents i p.data (engineTaken s)
  refine ⟨_, hstep, ⟨hwas.trans h.wasReset, rfl, hhost.trans h.host, ?_⟩, hrec, rfl⟩
  change AgentsOnly (effectOf i p.data (engineTaken s)).sched
  rw [hsched]
  exact h.agents.tail

/-- The polls of a WAIT pass until the engine has its turn and completes the pending command (R105). -/
theorem Pending.reaches_completion {s : State} {p : Pend} {i : Instr} {rest : List HostOp}
    (h : Pending s p i rest) :
    ∃ t u, Reaches s t ∧ AtProgram t (.wait :: rest) ∧ t.received = s.received ∧ u.blk = s.blk ∧
      t.blk = finishCmd (effectOf i p.data u).blk := by
  generalize hl : s.sched = l
  induction l generalizing s with
  | nil =>
    obtain ⟨t, hstep, ht, hrec, hblk⟩ := h.complete (by simp [nextTurn, hl, h.busy])
    exact ⟨t, engineTaken s, .single hstep, ht, hrec, rfl, hblk⟩
  | cons turn l ih =>
    rcases nextTurn_of_agents h.agents with hn | hn
    · have hstep := step_polls ⟨h.wasReset, hn⟩ h.host
      rw [h.busy] at hstep
      have hpoll : Pending { beginStep .host s with host := .wait :: rest } p i rest :=
        ⟨h.wasReset, h.busy, h.pend, h.instr, rfl, h.agents.tail⟩
      obtain ⟨t, u, hr, ht, hrec, hu, hblk⟩ := ih hpoll (by rw [beginStep_sched, hl]; rfl)
      exact ⟨t, u, hr.head hstep, ht, hrec, hu, hblk⟩
    · obtain ⟨t, hstep, ht, hrec, hblk⟩ := h.complete hn
      exact ⟨t, engineTaken s, .single hstep, ht, hrec, rfl, hblk⟩

/-- Settles O45: at once on an idle block, after the completion on a busy one. -/
theorem waitEnds : Obligations.WaitEnds := by
  unfold Obligations.WaitEnds
  intro s rest hs hw hl hsched
  cases hb : s.blk.busy with
  | false =>
    obtain ⟨t, hr, ht, -⟩ := AtProgram.wait ⟨hw, hb, hl, hsched⟩
    exact ⟨t, hr, ht.host, ht.idle⟩
  | true =>
    obtain ⟨p, i, hp, hi, -⟩ := pendOk_busy (hs hw).pend hb
    obtain ⟨u, -, hru, hu, -⟩ := Pending.reaches_completion ⟨hw, hb, hp, hi, hl, hsched⟩
    obtain ⟨t, hrt, ht, -⟩ := hu.wait
    exact ⟨t, hru.trans hrt, ht.host, ht.idle⟩

/-! ### ISSUE (30_encoding.md R104) -/

/-- A command issued to an idle block that may run it: accepted, completed, and waited for. -/
theorem AtProgram.issue {s : State} {i : Instr} {rest : List HostOp} (h : AtProgram s (issueOps i ++ rest))
    (hw : i.wf = true) (hs : i ≠ .sreset) (hn : needsInit i = true → s.blk.inited = true) :
    ∃ t u, Reaches s t ∧ AtProgram t rest ∧ t.received = s.received ∧ u.blk = acceptCmd i s.blk ∧
      t.blk = finishCmd (effectOf i s.blk.dataIn u).blk := by
  obtain ⟨v, hrv, hv, hturn, hvblk, hvrec⟩ := h.reaches_hostTurn
  have hwrite : HostWrites v Reg.cmd.offset (encode i) := ⟨hturn, by rw [hv.host]; rfl⟩
  have hcmd := regAt_offset .cmd
  have hnone : rejection v.blk Reg.cmd.offset (encode i) = none := by
    rw [cmd_rejection_of_decode hcmd (decode_encode hw) hs, hv.idle, hvblk]
    cases hq : needsInit i
    · rfl
    · simp [hn hq]
  have hstep := step_issues hwrite hcmd (decode_encode hw) hs
  rw [hnone, hvblk] at hstep
  have hpend : Pending { hostTaken v with blk := acceptCmd i s.blk } ⟨i.op, i.arg, s.blk.dataIn⟩ i rest :=
    ⟨hv.wasReset, rfl, rfl, pend_instr_of_accepted hw hs s.blk.dataIn,
      by rw [hostTaken_host, hv.host]; rfl, hv.agents.tail⟩
  obtain ⟨w, u, hrw, hwait, hwrec, hu, hblk⟩ := hpend.reaches_completion
  obtain ⟨t, hrt, ht, htblk, htrec⟩ := hwait.wait
  refine ⟨t, u, hrv.trans ((Reaches.single hstep).trans (hrw.trans hrt)), ht, ?_, hu, htblk.trans hblk⟩
  rw [htrec, hwrec]
  exact hvrec

end Sys2Proof.Machine
end

section

/-! Host programs run to their ends (30_encoding.md R104; 42_sponge.md R147, R158; 43_facade.md R174 to R185): what
each piece of a program leaves of the block, whatever the schedule, and the programs put together from them. -/

namespace Sys2Proof.Machine

/-! ### The live content of a block -/

/-- Two blocks with the same S, B, n, V, P and INITED: what the commands of a hash read. -/
structure SameLive (b b' : Block) : Prop where
  S : b'.S = b.S
  B : b'.B = b.B
  n : b'.n = b.n
  V : b'.V = b.V
  P : b'.P = b.P
  inited : b'.inited = b.inited

theorem SameLive.trans {b b' b'' : Block} (h : SameLive b b') (h' : SameLive b' b'') : SameLive b b'' :=
  ⟨h'.S.trans h.S, h'.B.trans h.B, h'.n.trans h.n, h'.V.trans h.V, h'.P.trans h.P,
    h'.inited.trans h.inited⟩

theorem SameLive.absorbByte {b b' : Block} (h : SameLive b b') (x : Byte) :
    SameLive (absorbByte b x) (absorbByte b' x) := by
  obtain ⟨hS, hB, hn, hV, hP, hi⟩ := h
  unfold Machine.absorbByte
  simp only [hS, hB, hn, hV]
  by_cases hf : (b.n + 1).toNat = rb b.V
  · rw [if_pos hf, if_pos hf]
    refine ⟨?_, rfl, rfl, rfl, hP, hi⟩
    dsimp only
    rw [hV]
  · rw [if_neg hf, if_neg hf]
    exact ⟨rfl, rfl, rfl, rfl, hP, hi⟩

theorem SameLive.absorbBytes {b b' : Block} (h : SameLive b b') (m : List Byte) :
    SameLive (absorbBytes b m) (absorbBytes b' m) := by
  induction m generalizing b b' with
  | nil => exact h
  | cons x m ih => exact ih (h.absorbByte x)

theorem SameLive.finalize_eq {b b' : Block} (h : SameLive b b') :
    finalize b'.S b'.B b'.n.toNat b'.V b'.P = finalize b.S b.B b.n.toNat b.V b.P := by
  obtain ⟨hS, hB, hn, hV, hP, -⟩ := h
  rw [hS, hB, hn, hV, hP]

/-! ### The commands of a program -/

/-- FINAL leaves the live content, and its digest in DG (42_sponge.md R157). -/
theorem AtProgram.final {s : State} {rest : List HostOp} (h : AtProgram s (issueOps .final ++ rest))
    (hi : s.blk.inited = true) :
    ∃ t, Reaches s t ∧ AtProgram t rest ∧ SameLive s.blk t.blk ∧ t.blk.DV = true ∧
      t.blk.DG = digestReg (finalize s.blk.S s.blk.B s.blk.n.toNat s.blk.V s.blk.P) := by
  obtain ⟨t, u, hr, ht, -, hu, hblk⟩ := h.issue rfl (by decide) fun _ => hi
  refine ⟨t, hr, ht, ?_, ?_, ?_⟩ <;> rw [hblk]
  · constructor <;> simp [effectOf, finalEffect, hu]
  · simp [effectOf, finalEffect]
  · simp [effectOf, finalEffect, hu]

/-- The block of an empty hash (43_facade.md R175). -/
def emptyHash (v : Variant) (p : PadMode) : Block := { Block.reset with V := v, P := p, inited := true }

/-- INIT starts an empty hash, and raises no error (43_facade.md R175). -/
theorem AtProgram.init {s : State} {v : Variant} {p : PadMode} {rest : List HostOp}
    (h : AtProgram s (issueOps (.init v p) ++ rest)) :
    ∃ t, Reaches s t ∧ AtProgram t rest ∧ SameLive (emptyHash v p) t.blk ∧ t.blk.DV = false ∧
      ∀ k, errFlag k t.blk = errFlag k s.blk := by
  obtain ⟨t, u, hr, ht, -, hu, hblk⟩ := h.issue rfl (by simp) nofun
  refine ⟨t, hr, ht, ?_, ?_, fun k => ?_⟩ <;> rw [hblk]
  · constructor <;> rfl
  · rfl
  · rw [errFlag_completed k (by simp), hu, errFlag_acceptCmd]

/-- ABSORBW absorbs the bytes it passes (30_encoding.md R104, 42_sponge.md R145). -/
theorem AtProgram.absorb {s : State} {k : BitVec 3} {d : Word} {rest : List HostOp}
    (h : AtProgram s (absorbW k d ++ rest)) (hi : s.blk.inited = true) (hk : k.toNat ≤ 4) :
    ∃ t, Reaches s t ∧ AtProgram t rest ∧ SameLive (absorbBytes s.blk (inputBytes k.toNat d)) t.blk := by
  obtain ⟨v, hrv, hv, hvblk, -⟩ := AtProgram.write (r := .dataIn) (by decide) h
  have hdata : v.blk = { s.blk with dataIn := d } := hvblk
  obtain ⟨t, u, hr, ht, -, hu, hblk⟩ := hv.issue (by simpa [Instr.wf] using hk) (by simp)
    fun _ => by rw [hdata]; exact hi
  rw [hdata] at hu hblk
  have hlive : SameLive s.blk u.blk := by rw [hu]; constructor <;> rfl
  refine ⟨t, hrv.trans hr, ht, (hlive.absorbBytes (inputBytes k.toNat d)).trans ?_⟩
  rw [hblk]
  constructor <;> simp [effectOf, absorbEffect]

/-- A sequence of ABSORBWs absorbs the bytes they pass, in order. -/
theorem AtProgram.absorbs {s : State} {l : List (BitVec 3 × Word)} {rest : List HostOp}
    (h : AtProgram s ((l.flatMap fun q => absorbW q.1 q.2) ++ rest)) (hi : s.blk.inited = true)
    (hl : ∀ q ∈ l, q.1.toNat ≤ 4) :
    ∃ t, Reaches s t ∧ AtProgram t rest ∧
      SameLive (absorbBytes s.blk (l.flatMap fun q => inputBytes q.1.toNat q.2)) t.blk := by
  induction l generalizing s with
  | nil => exact ⟨s, .refl s, h, by constructor <;> rfl⟩
  | cons q l ih =>
    rw [List.flatMap_cons, List.append_assoc] at h
    obtain ⟨u, hru, hu, hlive⟩ := h.absorb hi (hl q List.mem_cons_self)
    have hui : u.blk.inited = true := by rw [hlive.inited, absorbBytes_inited, hi]
    obtain ⟨t, hrt, ht, hlive'⟩ := ih hu hui fun q hq => hl q (List.mem_cons_of_mem _ hq)
    refine ⟨t, hru.trans hrt, ht, ?_⟩
    rw [List.flatMap_cons, absorbBytes_append]
    exact (hlive.absorbBytes _).trans hlive'

/-- Settles O55: the second FINAL reads the live content the first one left. -/
theorem finalTwiceSameDigest : Obligations.FinalTwiceSameDigest := by
  unfold Obligations.FinalTwiceSameDigest
  intro s rest sched hs hi hsched
  have hstart := withProgram_atProgram hs (issueOps .final ++ (issueOps .final ++ rest)) hsched
  obtain ⟨t, hrt, ht, htlive, htDV, htDG⟩ := hstart.final hi
  obtain ⟨u, hru, hu, hulive, huDV, huDG⟩ := ht.final (htlive.inited.trans hi)
  have hlive := htlive.trans hulive
  refine ⟨t, u, hrt, ht.host, hru, hu.host, htDV, huDV, ?_, hlive.S, hlive.B, hlive.n⟩
  rw [huDG, htDG, htlive.finalize_eq]

/-- Settles O56: both programs leave what absorbing the one stream of bytes leaves. -/
theorem streamSplittingInvariance : Obligations.StreamSplittingInvariance := by
  unfold Obligations.StreamSplittingInvariance
  intro s l l' rest sched sched' hs hi hl hl' hsame hsched hsched'
  obtain ⟨t, hr, ht, hlive⟩ := (withProgram_atProgram hs _ hsched).absorbs (rest := rest) hi hl
  obtain ⟨t', hr', ht', hlive'⟩ := (withProgram_atProgram hs _ hsched').absorbs (rest := rest) hi hl'
  rw [← hsame] at hlive'
  exact ⟨t, t', hr, ht.host, hr', ht'.host, hlive.S.trans hlive'.S.symm, hlive.B.trans hlive'.B.symm,
    hlive.n.trans hlive'.n.symm⟩

/-! ### SAVECTX (43_facade.md R183) -/

/-- Reads in a row deliver the registers' values in order, and leave the block. -/
theorem AtProgram.reads {s : State} {l : List Reg} {rest : List HostOp}
    (h : AtProgram s (l.map rdReg ++ rest)) :
    ∃ t, Reaches s t ∧ AtProgram t rest ∧ t.blk = s.blk ∧
      t.received = (l.map (regValue s.blk)).reverse ++ s.received := by
  induction l generalizing s with
  | nil => exact ⟨s, .refl s, h, rfl, rfl⟩
  | cons r l ih =>
    obtain ⟨u, hru, hu, hublk, hurec⟩ := AtProgram.read h
    obtain ⟨t, hrt, ht, htblk, htrec⟩ := ih hu
    refine ⟨t, hru.trans hrt, ht, htblk.trans hublk, ?_⟩
    rw [htrec, hublk, hurec, List.map_cons, List.reverse_cons, List.append_assoc]
    rfl

/-- The registers of a context, in the order SAVECTX reads them. -/
def ctxRegs : List Reg :=
  [.mode, .count] ++ (List.finRange 50).map .state ++ (List.finRange 36).map .buf

theorem saveCtx_eq : saveCtx = .wait :: ctxRegs.map rdReg := by
  simp only [saveCtx, ctxRegs, List.map_append, List.map_map, List.cons_append, List.nil_append,
    List.map_cons]
  rfl

theorem ctxOf_words (b : Block) : (ctxOf b).words = ctxRegs.map (regValue b) := by
  simp only [Ctx.words, ctxOf, ctxRegs, Vector.toList_ofFn, List.ofFn_eq_map, List.map_append, List.map_map,
    List.map_cons, List.map_nil]
  rfl

/-- Settles O58: a WAIT that passes at once, and the reads of the context. -/
theorem saveContextReads : Obligations.SaveContextReads := by
  unfold Obligations.SaveContextReads
  intro s rest sched hs hsched
  rw [saveCtx_eq, ctxOf_words]
  obtain ⟨u, hru, hu, hublk, hurec⟩ :=
    AtProgram.wait (withProgram_atProgram hs (.wait :: ctxRegs.map rdReg ++ rest) hsched)
  obtain ⟨t, hrt, ht, htblk, htrec⟩ := AtProgram.reads hu
  refine ⟨t, hru.trans hrt, ht.host, htblk.trans hublk, ?_⟩
  rw [htrec, hurec, hublk]
  rfl

/-! ### LOADCTX (43_facade.md R184, R185) -/

/-- Writes in a row to registers other than CMD take their effects in order. -/
theorem AtProgram.writes {s : State} {l : List (Reg × Word)} {rest : List HostOp}
    (hc : ∀ q ∈ l, q.1 ≠ .cmd) (h : AtProgram s (l.map (fun q => wrReg q.1 q.2) ++ rest)) :
    ∃ t, Reaches s t ∧ AtProgram t rest ∧ t.blk = l.foldl (fun b q => writeReg q.1 q.2 b) s.blk := by
  induction l generalizing s with
  | nil => exact ⟨s, .refl s, h, rfl⟩
  | cons q l ih =>
    obtain ⟨u, hru, hu, hublk, -⟩ := AtProgram.write (hc q List.mem_cons_self) h
    obtain ⟨t, hrt, ht, htblk⟩ := ih (fun q hq => hc q (List.mem_cons_of_mem _ hq)) hu
    exact ⟨t, hru.trans hrt, ht, by rw [htblk, hublk]; rfl⟩

/-- The words of `src` copied over those of `b`, at the places in `js`. -/
def copyWords {m k : Nat} (src : Bytes m) (js : List (Fin k)) (b : Bytes m) : Bytes m :=
  js.foldl (fun b j => setLe32 b (4 * j.val) (le32 src (4 * j.val))) b

theorem copyWords_cons {m k : Nat} (src : Bytes m) (j : Fin k) (js : List (Fin k)) (b : Bytes m) :
    copyWords src (j :: js) b = copyWords src js (setLe32 b (4 * j.val) (le32 src (4 * j.val))) := rfl

/-- A byte copied is the source's, any other is kept. -/
theorem copyWords_getD {m k : Nat} (src : Bytes m) (js : List (Fin k)) (b : Bytes m) {i : Nat} (hi : i < m) :
    (copyWords src js b).getD i 0 = if ∃ j ∈ js, j.val = i / 4 then src.getD i 0 else b.getD i 0 := by
  induction js generalizing b with
  | nil => simp [copyWords]
  | cons j js ih =>
    rw [copyWords_cons, ih, setLe32_getD]
    by_cases hj : j.val = i / 4
    · rw [if_pos (show ∃ j' ∈ j :: js, j'.val = i / 4 from ⟨j, List.mem_cons_self, hj⟩),
        if_pos (show 4 * j.val ≤ i ∧ i < 4 * j.val + 4 ∧ i < m by omega), wordByte_le32 _ _ (by omega),
        Nat.add_sub_cancel' (by omega), ite_self]
    · rw [if_neg (show ¬(4 * j.val ≤ i ∧ i < 4 * j.val + 4 ∧ i < m) by omega)]
      simp [hj]

/-- All the words copied are the whole array. -/
theorem copyWords_all {m k : Nat} (hm : m = 4 * k) (src b : Bytes m) :
    copyWords src (List.finRange k) b = src := by
  apply Vector.ext
  intro i hi
  have hbyte := copyWords_getD src (List.finRange k) b hi
  rw [if_pos ⟨⟨i / 4, by omega⟩, List.mem_finRange _, rfl⟩, getD_vector, getD_vector, dif_pos hi,
    dif_pos hi] at hbyte
  exact hbyte

/-- A window of `k` words onto an array of the block, which idle writes fill word by word. -/
structure Window (m k : Nat) where
  reg : Fin k → Reg
  get : Block → Bytes m
  put : Bytes m → Block → Block
  size : m = 4 * k
  reg_ne_cmd : ∀ j, reg j ≠ .cmd
  get_put : ∀ X b, get (put X b) = X
  put_put : ∀ X Y b, put X (put Y b) = put X b
  put_get : ∀ b, put (get b) b = b
  put_busy : ∀ X b, (put X b).busy = b.busy
  put_DV : ∀ X b, (put X b).DV = b.DV
  write : ∀ j d b, b.busy = false → b.DV = false →
    writeReg (reg j) d b = put (setLe32 (get b) (4 * j.val) d) b

/-- The window onto S (10_state.md R48). -/
def windowS : Window 200 50 where
  reg := .state
  get := Block.S
  put X b := { b with S := X }
  size := rfl
  reg_ne_cmd _ := nofun
  get_put _ _ := rfl
  put_put _ _ _ := rfl
  put_get _ := rfl
  put_busy _ _ := rfl
  put_DV _ _ := rfl
  write j d b hb hDV := by rw [writeReg, writeState, if_neg (by simp [hb]), ← hDV]

/-- The window onto B (10_state.md R49). -/
def windowB : Window 144 36 where
  reg := .buf
  get := Block.B
  put X b := { b with B := X }
  size := rfl
  reg_ne_cmd _ := nofun
  get_put _ _ := rfl
  put_put _ _ _ := rfl
  put_get _ := rfl
  put_busy _ _ := rfl
  put_DV _ _ := rfl
  write j d b hb hDV := by rw [writeReg, writeBuf, if_neg (by simp [hb]), ← hDV]

/-- Writing words of `X` through a window of an idle block with DV = 0. -/
theorem Window.foldl_write {m k : Nat} (w : Window m k) (X : Bytes m) (js : List (Fin k)) {b : Block}
    (hb : b.busy = false) (hDV : b.DV = false) :
    (js.map fun j => (w.reg j, le32 X (4 * j.val))).foldl (fun b q => writeReg q.1 q.2 b) b =
      w.put (copyWords X js (w.get b)) b := by
  induction js generalizing b with
  | nil => exact (w.put_get b).symm
  | cons j js ih =>
    rw [List.map_cons, List.foldl_cons, w.write j _ b hb hDV, ih (by rw [w.put_busy, hb]) (by rw [w.put_DV, hDV]),
      w.get_put, w.put_put, copyWords_cons]

/-- Loading a whole window copies its array. -/
theorem AtProgram.loadWindow {m k : Nat} (w : Window m k) {s : State} {X : Bytes m} {rest : List HostOp}
    (h : AtProgram s (((List.finRange k).map fun j => wrReg (w.reg j) (le32 X (4 * j.val))) ++ rest))
    (hDV : s.blk.DV = false) :
    ∃ t, Reaches s t ∧ AtProgram t rest ∧ t.blk = w.put X s.blk := by
  have hprog : ((List.finRange k).map fun j => wrReg (w.reg j) (le32 X (4 * j.val))) =
      ((List.finRange k).map fun j => (w.reg j, le32 X (4 * j.val))).map fun q => wrReg q.1 q.2 := by
    rw [List.map_map]
    rfl
  rw [hprog] at h
  obtain ⟨t, hr, ht, hblk⟩ := h.writes (by simpa using w.reg_ne_cmd)
  rw [w.foldl_write X _ h.idle hDV, copyWords_all w.size] at hblk
  exact ⟨t, hr, ht, hblk⟩

/-- Loading COUNT with a value below rb sets n (10_state.md R43). -/
theorem AtProgram.loadCount {s : State} {n : BitVec 8} {rest : List HostOp}
    (h : AtProgram s (wrReg .count (n.setWidth 32) :: rest)) (hn : n.toNat < rb s.blk.V) :
    ∃ t, Reaches s t ∧ AtProgram t rest ∧ t.blk = { s.blk with n := n, DV := false } := by
  obtain ⟨t, hr, ht, hblk, -⟩ := AtProgram.write (by decide) h
  have hword : (n.setWidth 32).toNat = n.toNat := by
    rw [BitVec.toNat_setWidth, Nat.mod_eq_of_lt (by omega)]
  refine ⟨t, hr, ht, ?_⟩
  rw [hblk, writeReg, writeCount, if_neg (by simp [h.idle]), hword, if_neg (by omega),
    BitVec.setWidth_setWidth_of_le _ (by decide), BitVec.setWidth_eq]

theorem variant_ofCode_code (v : Variant) : Variant.ofCode v.code = v := by
  cases v <;> rfl

theorem padMode_ofBit_bit (p : PadMode) : PadMode.ofBit p.bit = p := by
  cases p <;> rfl

/-- The context of a block, loaded: INIT of its variant and padding mode, then S, B and n (R184). -/
theorem loadCtx_ctxOf (a : Block) : loadCtx (ctxOf a) =
    .wait :: (issueOps (.init a.V a.P) ++
      (((List.finRange 50).map fun j => wrReg (.state j) (le32 a.S (4 * j.val))) ++
        (((List.finRange 36).map fun j => wrReg (.buf j) (le32 a.B (4 * j.val))) ++
          [wrReg .count (a.n.setWidth 32)]))) := by
  obtain ⟨hV, hP⟩ := modeWord_fields a
  have hv : (ctxOf a).variant = a.V := (congrArg Variant.ofCode hV).trans (variant_ofCode_code a.V)
  have hp : (ctxOf a).pad = a.P := (congrArg PadMode.ofBit hP).trans (padMode_ofBit_bit a.P)
  rw [loadCtx, hv, hp]
  simp only [ctxOf, Fin.getElem_fin, Vector.getElem_ofFn, Fin.eta, List.append_assoc]
  rfl

/-- Settles O59: INIT, then each part of the context in turn. -/
theorem loadContextCopies : Obligations.LoadContextCopies := by
  unfold Obligations.LoadContextCopies
  intro a c rest sched hn hc hsched
  have hstart := withProgram_atProgram hc (loadCtx (ctxOf a) ++ rest) hsched
  rw [loadCtx_ctxOf] at hstart ⊢
  simp only [List.cons_append, List.append_assoc] at hstart ⊢
  obtain ⟨s0, hr0, h0, hb0, -⟩ := hstart.wait
  obtain ⟨s1, hr1, h1, hlive, hDV, herr⟩ := h0.init
  obtain ⟨s2, hr2, h2, hb2⟩ := h1.loadWindow windowS hDV
  obtain ⟨s3, hr3, h3, hb3⟩ := h2.loadWindow windowB (by rw [hb2]; exact hDV)
  have hV3 : s3.blk.V = a.V := by rw [hb3, hb2]; exact hlive.V
  obtain ⟨t, hr4, ht, hb4⟩ := h3.loadCount (by rw [hV3]; exact hn)
  have hblk : t.blk = { s1.blk with S := a.S, B := a.B, n := a.n, DV := false } := by
    rw [hb4, hb3, hb2]
    rfl
  have hVt : t.blk.V = a.V := by rw [hblk]; exact hlive.V
  have hPt : t.blk.P = a.P := by rw [hblk]; exact hlive.P
  refine ⟨t, hr0.trans (hr1.trans (hr2.trans (hr3.trans hr4))), ht.host, hVt, hPt, ?_, ?_, ?_, ?_, ?_,
    ht.idle, fun k => ?_, ?_⟩
  · rw [hblk]
  · rw [hblk]
  · rw [hblk]
  · rw [hblk]; exact hlive.inited
  · rw [hblk]
  · have herr1 : errFlag k t.blk = errFlag k s1.blk := by rw [hblk]; cases k <;> rfl
    rw [herr1, herr, hb0]
    rfl
  · rw [hVt, hPt, hblk]

/-! ### HASHBYTES (30_encoding.md R104, 43_facade.md R176) -/

/-- The bytes a word passes are those it was made of. -/
theorem inputBytes_wordOfBytes (a b c d : Byte) {k : Nat} (hk : k ≤ 4) :
    inputBytes k (wordOfBytes a b c d) = [a, b, c, d].take k := by
  have hword := fun j => wordByte_wordOfBytes a b c d (j := j)
  refine bytes_ext (by simp [hk]) fun j hj => ?_
  rw [inputBytes_length] at hj
  rw [inputBytes_getD _ hj, hword j (by omega), List.getD_eq_getElem?_getD, List.getD_eq_getElem?_getD,
    List.getElem?_take_of_lt hj]

/-- HASHBYTES is a sequence of ABSORBWs that pass the message. -/
theorem hashBytes_absorbs (m : List Byte) : ∃ l : List (BitVec 3 × Word),
    hashBytes m = (l.flatMap fun q => absorbW q.1 q.2) ∧ (∀ q ∈ l, q.1.toNat ≤ 4) ∧
      (l.flatMap fun q => inputBytes q.1.toNat q.2) = m := by
  induction m using hashBytes.induct with
  | case1 => exact ⟨[], rfl, nofun, rfl⟩
  | case2 a =>
    refine ⟨[(1, wordOfBytes a 0 0 0)], by simp [hashBytes], by simp, ?_⟩
    simpa using inputBytes_wordOfBytes a 0 0 0 (k := 1) (by decide)
  | case3 a b =>
    refine ⟨[(2, wordOfBytes a b 0 0)], by simp [hashBytes], by simp, ?_⟩
    simpa using inputBytes_wordOfBytes a b 0 0 (k := 2) (by decide)
  | case4 a b c =>
    refine ⟨[(3, wordOfBytes a b c 0)], by simp [hashBytes], by simp, ?_⟩
    simpa using inputBytes_wordOfBytes a b c 0 (k := 3) (by decide)
  | case5 a b c d rest ih =>
    obtain ⟨l, hprog, hle, hbytes⟩ := ih
    refine ⟨(4, wordOfBytes a b c d) :: l, ?_, ?_, ?_⟩
    · rw [hashBytes, List.flatMap_cons, hprog]
    · exact List.forall_mem_cons.mpr ⟨show (4#3).toNat ≤ 4 by decide, hle⟩
    · have hfour := inputBytes_wordOfBytes a b c d (k := 4) (by decide)
      rw [List.flatMap_cons, hbytes]
      exact congrArg (· ++ rest) hfour

/-- HASHBYTES absorbs the message. -/
theorem AtProgram.hashBytes {s : State} {m : List Byte} {rest : List HostOp}
    (h : AtProgram s (hashBytes m ++ rest)) (hi : s.blk.inited = true) :
    ∃ t, Reaches s t ∧ AtProgram t rest ∧ SameLive (absorbBytes s.blk m) t.blk := by
  obtain ⟨l, hprog, hle, hbytes⟩ := hashBytes_absorbs m
  rw [hprog] at h
  rw [← hbytes]
  exact h.absorbs hi hle

end Sys2Proof.Machine
end

section

/-! The hash of a whole message (42_sponge.md R141 to R155): byte-wise absorption through the buffer against the
blocks of the padded message. -/

namespace Sys2Proof.Machine

/-! ### Absorbing the blocks of a message -/

/-- The state after the first `k` blocks of r bytes of `m`, from the zero state. -/
def absorbedBlocks (r : Nat) (m : List Byte) (k : Nat) : Bytes 200 :=
  (List.range k).foldl (fun X j => absorbBlock X (messageBlock r m j)) (Vector.replicate 200 0)

theorem absorbedBlocks_zero (r : Nat) (m : List Byte) : absorbedBlocks r m 0 = Vector.replicate 200 0 := rfl

theorem absorbedBlocks_succ (r : Nat) (m : List Byte) (k : Nat) :
    absorbedBlocks r m (k + 1) = absorbBlock (absorbedBlocks r m k) (messageBlock r m k) := by
  rw [absorbedBlocks, List.range_succ, List.foldl_append]
  rfl

/-- A block that lies within `m` is not changed by what follows `m`. -/
theorem messageBlock_append {r j : Nat} {m : List Byte} (l : List Byte) (h : (j + 1) * r ≤ m.length) :
    messageBlock r (m ++ l) j = messageBlock r m j := by
  apply Vector.ext
  intro i hi
  rw [Nat.add_mul, Nat.one_mul] at h
  rw [messageBlock, messageBlock, Vector.getElem_ofFn, Vector.getElem_ofFn, List.getD_append _ _ _ _ (by omega)]

theorem absorbedBlocks_append {r k : Nat} {m : List Byte} (l : List Byte) (h : k * r ≤ m.length) :
    absorbedBlocks r (m ++ l) k = absorbedBlocks r m k := by
  induction k with
  | zero => rw [absorbedBlocks_zero, absorbedBlocks_zero]
  | succ k ih =>
    have hk : k * r ≤ m.length := (Nat.mul_le_mul_right r (Nat.le_succ k)).trans h
    rw [absorbedBlocks_succ, absorbedBlocks_succ, ih hk, messageBlock_append l h]

/-! ### Absorbing through the buffer (R142) -/

/-- The block has absorbed `m`: the whole blocks are in S, and the rest is in the buffer. -/
structure Absorbed (m : List Byte) (b : Block) : Prop where
  n : b.n.toNat = m.length % rb b.V
  S : b.S = absorbedBlocks (rb b.V) m (m.length / rb b.V)
  B : ∀ i < b.n.toNat, b.B.getD i 0 = m.getD (m.length / rb b.V * rb b.V + i) 0

theorem absorbed_emptyHash (v : Variant) (p : PadMode) : Absorbed [] (emptyHash v p) := by
  have hn : (emptyHash v p).n.toNat = 0 := rfl
  refine ⟨?_, ?_, fun i hi => ?_⟩
  · rw [hn, List.length_nil, Nat.zero_mod]
  · rw [List.length_nil, Nat.zero_div]
    rfl
  · omega

/-- The buffer with one more byte is the message's rest with one more byte. -/
theorem Absorbed.buffer_snoc {m : List Byte} {b : Block} (h : Absorbed m b) (x : Byte) {i : Nat}
    (hi : i < b.n.toNat + 1) (h144 : i < 144) :
    (b.B.setIfInBounds b.n.toNat x).getD i 0 = (m ++ [x]).getD (m.length / rb b.V * rb b.V + i) 0 := by
  have hlen := Nat.div_add_mod' m.length (rb b.V)
  rw [← h.n] at hlen
  rw [setIfInBounds_getD]
  by_cases hin : i = b.n.toNat
  · rw [if_pos ⟨hin, h144⟩, List.getD_append_right _ _ _ _ (by omega), hin, hlen, Nat.sub_self]
    rfl
  · rw [if_neg (fun hc => hin hc.1), h.B i (by omega), List.getD_append _ _ _ _ (by omega)]

/-- AbsorbByte absorbs one more byte. -/
theorem Absorbed.snoc {m : List Byte} {b : Block} (h : Absorbed m b) (x : Byte) :
    Absorbed (m ++ [x]) (absorbByte b x) := by
  obtain ⟨hr72, hr144⟩ := rb_bounds b.V
  have hlt : b.n.toNat < rb b.V := h.n ▸ Nat.mod_lt _ (by omega)
  have hlen := Nat.div_add_mod m.length (rb b.V)
  rw [← h.n] at hlen
  have hfit : m.length / rb b.V * rb b.V ≤ m.length := Nat.div_mul_le_self _ _
  by_cases hfull : b.n.toNat + 1 = rb b.V
  · obtain ⟨hdiv, hmod⟩ : (m.length + 1) / rb b.V = m.length / rb b.V + 1 ∧ (m.length + 1) % rb b.V = 0 :=
      (Nat.div_mod_unique (by omega)).mpr ⟨by rw [Nat.mul_add]; omega, by omega⟩
    rw [absorbByte_of_full hfull]
    refine ⟨?_, ?_, nofun⟩
    · rw [List.length_append, List.length_singleton, hmod]
      rfl
    · dsimp only
      rw [List.length_append, List.length_singleton, hdiv, absorbedBlocks_succ, absorbedBlocks_append _ hfit,
        h.S]
      congr 1
      apply Vector.ext
      intro i hi
      rw [firstBytes, messageBlock, Vector.getElem_ofFn, Vector.getElem_ofFn,
        h.buffer_snoc x (by omega) (by omega)]
  · obtain ⟨hdiv, hmod⟩ : (m.length + 1) / rb b.V = m.length / rb b.V ∧
        (m.length + 1) % rb b.V = b.n.toNat + 1 :=
      (Nat.div_mod_unique (by omega)).mpr ⟨by omega, by omega⟩
    have hn := count_succ_toNat hlt
    rw [absorbByte_of_lt (by omega)]
    refine ⟨?_, ?_, fun i hi => ?_⟩
    · rw [List.length_append, List.length_singleton, hmod]
      exact hn
    · dsimp only
      rw [List.length_append, List.length_singleton, hdiv, absorbedBlocks_append _ hfit, h.S]
    · dsimp only at hi ⊢
      rw [hn] at hi
      rw [List.length_append, List.length_singleton, hdiv, h.buffer_snoc x hi (by omega)]

theorem Absorbed.absorbBytes {m : List Byte} {b : Block} (h : Absorbed m b) (m' : List Byte) :
    Absorbed (m ++ m') (absorbBytes b m') := by
  induction m' generalizing m b with
  | nil => rw [List.append_nil]; exact h
  | cons x m' ih =>
    have hsnoc := ih (h.snoc x)
    rwa [List.append_assoc, List.singleton_append] at hsnoc

/-! ### The padding (R150, R151) -/

theorem padTail_length (P : PadMode) {q : Nat} (hq : 1 ≤ q) : (padTail P q).length = q := by
  unfold padTail
  split
  · next h => rw [h]; rfl
  · rw [List.length_cons, List.length_append, List.length_replicate, List.length_singleton]
    omega

/-- DS(P) in the first byte of the padding, 0x80 in the last. -/
theorem padTail_getD (P : PadMode) {q i : Nat} (hi : i < q) :
    (padTail P q).getD i 0 = (if i = 0 then dsByte P else 0) ^^^ (if i + 1 = q then 0x80#8 else 0) := by
  unfold padTail
  split
  · next h =>
    obtain rfl : i = 0 := by omega
    rw [if_pos rfl, if_pos (by omega)]
    rfl
  · next h =>
    cases i with
    | zero =>
      rw [if_pos rfl, if_neg (by omega)]
      exact BitVec.xor_zero.symm
    | succ i =>
      rw [List.getD_cons_succ, if_neg (by omega)]
      by_cases hlast : i + 1 + 1 = q
      · rw [if_pos hlast, List.getD_append_right _ _ _ _ (by rw [List.length_replicate]; omega),
          List.length_replicate, show i - (q - 2) = 0 by omega]
        exact BitVec.zero_xor.symm
      · rw [if_neg hlast, List.getD_append _ _ _ _ (by rw [List.length_replicate]; omega),
          List.getD_eq_getElem?_getD, List.getElem?_getD_replicate_default_eq]
        rfl

/-- The last block of the padded message is PadBlock of the buffer. -/
theorem Absorbed.messageBlock_pad {m : List Byte} {b : Block} (h : Absorbed m b) :
    messageBlock (rb b.V) (m ++ padTail b.P (rb b.V - b.n.toNat)) (m.length / rb b.V) =
      padBlock b.B b.n.toNat b.P (rb b.V) := by
  have hlen := Nat.div_add_mod' m.length (rb b.V)
  rw [← h.n] at hlen
  apply Vector.ext
  intro i hi
  rw [messageBlock, padBlock, Vector.getElem_ofFn, Vector.getElem_ofFn, padByte]
  dsimp only
  by_cases hin : i < b.n.toNat
  · rw [if_pos hin, if_neg (by omega), List.getD_append _ _ _ _ (by omega), h.B i hin]
    have hlt : b.n.toNat < rb b.V := h.n ▸ Nat.mod_lt _ (by omega)
    rw [if_neg (by omega)]
    simp
  · rw [if_neg hin, List.getD_append_right _ _ _ _ (by omega), padTail_getD _ (by omega)]
    have hfirst : m.length / rb b.V * rb b.V + i - m.length = 0 ↔ i = b.n.toNat := by omega
    have hlast : m.length / rb b.V * rb b.V + i - m.length + 1 = rb b.V - b.n.toNat ↔ i + 1 = rb b.V := by
      omega
    simp [hfirst, hlast]

/-- Finalizing a block that has absorbed `m` gives the hash of `m` (R154, R155). -/
theorem Absorbed.finalize_eq_hashOf {m : List Byte} {b : Block} (h : Absorbed m b) :
    finalize b.S b.B b.n.toNat b.V b.P = hashOf b.V b.P m := by
  have hpos : 0 < rb b.V := Nat.lt_of_lt_of_le (by decide) (rb_bounds b.V).1
  have hlt : b.n.toNat < rb b.V := h.n ▸ Nat.mod_lt _ hpos
  have hlen := Nat.div_add_mod m.length (rb b.V)
  rw [← h.n] at hlen
  have hpad : padMessage b.P (rb b.V) m = m ++ padTail b.P (rb b.V - b.n.toNat) := by rw [padMessage, h.n]
  have hblocks : (m ++ padTail b.P (rb b.V - b.n.toNat)).length / rb b.V = m.length / rb b.V + 1 := by
    rw [List.length_append, padTail_length _ (by omega)]
    refine Nat.div_eq_of_lt_le ?_ ?_ <;> rw [Nat.mul_comm] <;> simp only [Nat.mul_add] <;> omega
  have hstate : absorbedBlocks (rb b.V) (m ++ padTail b.P (rb b.V - b.n.toNat)) (m.length / rb b.V + 1) =
      absorbBlock b.S (padBlock b.B b.n.toNat b.P (rb b.V)) := by
    rw [absorbedBlocks_succ, absorbedBlocks_append _ (Nat.div_mul_le_self _ _), h.messageBlock_pad, ← h.S]
  rw [finalize, squeeze_of_le (outLen_le b.V).1, ← hstate, ← hblocks, ← hpad]
  rfl

/-! ### The whole program -/

/-- Settles O57: the program absorbs the message into an empty hash, and FINAL takes the digest of that. -/
theorem digestIsHashOfMessage : Obligations.DigestIsHashOfMessage := by
  unfold Obligations.DigestIsHashOfMessage
  intro s V P m rest sched hs hsched
  obtain ⟨s1, hr1, h1, hempty, -⟩ := (withProgram_atProgram hs _ hsched).init (v := V) (p := P)
    (rest := hashBytes m ++ (issueOps .final ++ rest))
  obtain ⟨s2, hr2, h2, hlive⟩ := h1.hashBytes hempty.inited
  have habs := (hempty.absorbBytes m).trans hlive
  obtain ⟨t, hr3, ht, hfinal, hDV, hDG⟩ := h2.final (by rw [habs.inited, absorbBytes_inited]; rfl)
  have hV : s2.blk.V = V := by rw [habs.V, absorbBytes_V]; rfl
  have hP : s2.blk.P = P := by rw [habs.P, absorbBytes_P]; rfl
  have hhash : finalize s2.blk.S s2.blk.B s2.blk.n.toNat s2.blk.V s2.blk.P = hashOf V P m := by
    rw [habs.finalize_eq, ((absorbed_emptyHash V P).absorbBytes m).finalize_eq_hashOf, absorbBytes_V,
      absorbBytes_P]
    rfl
  refine ⟨t, hr1.trans (hr2.trans hr3), ht.host, ht.idle, hDV, hfinal.V.trans hV, hfinal.P.trans hP, ?_, ?_⟩
  · rw [hDG, hhash]
  · rw [← hhash, finalize_length, hV]

end Sys2Proof.Machine
end
